-- ==== Sys2Proof/Word.lean ====
section
/-! DEFINITION. The byte and the byte string of the codec block (spec/00_scope.md R9). -/

namespace Sys2Proof

/-- A byte, an unsigned 8-bit value (R9). -/
abbrev Byte := BitVec 8

/-- A byte string, a finite sequence of bytes (R9). -/
abbrev Bytes := List Byte

/-- A phrase of the dictionary codec: a byte string used as a key of `DICT` or a value of `TABLE` (R29, R32). -/
abbrev Phrase := Bytes

end Sys2Proof
end

