-- ==== Sys2Proof/Config.lean ====
section
/-! DEFINITION. The constants the source fixes (spec/00_scope.md R7), the open parameters (R8) and the one free
value (spec/60_exceptions.md R328). -/

namespace Sys2Proof.Config

/-- `LZW_SEED_COUNT` (R7). -/
def lzwSeedCount : Nat := 256
/-- `LZW_FIRST_CODE` (R7). -/
def lzwFirstCode : Nat := 256
/-- `LZW_WIDTHS` (R7). -/
def lzwWidths : List Nat := [2, 3, 4]
/-- `LZW_W2_MAX` (R7). -/
def lzwW2Max : Nat := 0xFFFF
/-- `LZW_W3_MAX` (R7). -/
def lzwW3Max : Nat := 0xFFFFFF
/-- The bound of a code word of four bytes (R184, D11): a code of this value or more has no encoding. -/
def lzwCodeBound : Nat := 2 ^ 32
/-- `LZ_WINDOW` (R7). -/
def lzWindow : Nat := 4096
/-- `LZ_MAX_MATCH` (R7). -/
def lzMaxMatch : Nat := 255
/-- `LZ_MIN_MATCH` (R7). -/
def lzMinMatch : Nat := 3
/-- `LZ_FLAG_LIT` (R7). -/
def lzFlagLit : Byte := 0
/-- `LZ_FLAG_MATCH` (R7). -/
def lzFlagMatch : Byte := 1
/-- `BMP_FILE_HDR_LEN` (R7). -/
def bmpFileHdrLen : Nat := 14
/-- `BMP_INFO_MIN` (R7). -/
def bmpInfoMin : Nat := 40
/-- `ALG_DICT` (R7). -/
def algDict : Nat := 1
/-- `ALG_WINDOW` (R7). -/
def algWindow : Nat := 2
/-- `CMPT_VERSION` (R7). -/
def cmptVersion : Nat := 1
/-- `CMPT_HDR_LEN` (R7; 20 by spec/90_conflicts.md C1). -/
def cmptHdrLen : Nat := 20
/-- The BMP signature "BM" (R9, R98; the ASCII values are the spec's general knowledge G1). -/
def bmpSignature : Bytes := [0x42, 0x4D]
/-- The container magic "CMPT" (R9, R100, G1). -/
def cmptMagic : Bytes := [0x43, 0x4D, 0x50, 0x54]

/-- `LZW_DEC_WIDTH_POLICY` (R8, D9): what `LZW_DEC` does when `SIDE` is not 2, 3 or 4. -/
inductive WidthPolicy where
  /-- `CorruptionError(LZW_BAD_WIDTH)`, the default. -/
  | fault
  /-- The launch is refused. -/
  | refuse
deriving DecidableEq, Repr

/-- `LZ_TIE_BREAK` (R8, D14): which of several longest matches `LZ77_ENC` takes. DESIGN CHOICE (log 7): of the
choices D14 leaves open the model offers these two. -/
inductive TieBreak where
  /-- The nearest earlier occurrence, the default (R225). -/
  | smallestDistance
  /-- The farthest one inside the window. -/
  | largestDistance
deriving DecidableEq, Repr

/-- The open parameters of R8. `none` is "unbounded". -/
structure Params where
  /-- `MAX_INPUT_LEN` (D5). -/
  maxInputLen : Nat
  /-- `OUT_CAP` (D6). -/
  outCap : Option Nat
  /-- `DICT_CAP`, in dictionary entries, seeds included (D7). -/
  dictCap : Option Nat
  /-- `LZW_DEC_WIDTH_POLICY` (D9). -/
  widthPolicy : WidthPolicy
  /-- `LZ_TIE_BREAK` (D14). -/
  tieBreak : TieBreak
deriving DecidableEq, Repr

/-- The spec's defaults (R8). -/
def Params.default : Params :=
  { maxInputLen := 2 ^ 32 - 1, outCap := none, dictCap := none,
    widthPolicy := .fault, tieBreak := .smallestDistance }

/-- The FREE VALUE `elapsed` that `CMPT_SAVE` returns (R277, R328, D33), by the number of the draw. It has no
body: no proof can see its value. DESIGN CHOICE (log 8): the pair `(n, d)` is the duration `n / (d + 1)`. -/
opaque elapsed : Nat → Nat × Nat

end Sys2Proof.Config
end

