-- ==== Sys2Proof/Syntax.lean ====
section
/-! DEFINITION. The instructions: one constructor per row of spec/opcode_table.json (spec/30_encoding.md R90, R106).
A constructor carries the row's variable fields; constant bytes (flag, signature, magic) are in the encoding. -/

namespace Sys2Proof

/-- The variable fields of a `BMP_FILE_HDR` record (R98). -/
structure BmpFileFields where
  fileSize   : BitVec 32
  reserved1  : BitVec 16
  reserved2  : BitVec 16
  dataOffset : BitVec 32
deriving DecidableEq, Repr

/-- The eleven fields of a `BMP_INFO_HDR` record as 16- and 32-bit patterns (R99). -/
structure BmpInfoFields where
  headerSize      : BitVec 32
  width           : BitVec 32
  height          : BitVec 32
  planes          : BitVec 16
  bitsPerPixel    : BitVec 16
  compression     : BitVec 32
  imageSize       : BitVec 32
  xPixelsPerMeter : BitVec 32
  yPixelsPerMeter : BitVec 32
  colorsUsed      : BitVec 32
  colorsImportant : BitVec 32
deriving DecidableEq, Repr

/-- The variable fields of a `CMPT_HDR` record (R100). -/
structure CmptFields where
  version       : BitVec 8
  algorithmId   : BitVec 8
  sideInfo      : BitVec 8
  bitsPerPixel  : BitVec 8
  width         : BitVec 32
  height        : BitVec 32
  payloadLength : BitVec 32
deriving DecidableEq, Repr

/-- The rows of the opcode table. -/
inductive Instr where
  /-- `BMP_PARSE`, CMD = 1 (R140). -/
  | bmpParse
  /-- `LZW_ENC`, CMD = 2 (R170). -/
  | lzwEnc
  /-- `LZW_DEC`, CMD = 3 (R185). -/
  | lzwDec
  /-- `LZ77_ENC`, CMD = 4 (R220). -/
  | lz77Enc
  /-- `LZ77_DEC`, CMD = 5 (R240). -/
  | lz77Dec
  /-- `CMD_RESERVED_0` (R23). -/
  | cmdReserved0
  /-- `CMD_RESERVED_6` (R23). -/
  | cmdReserved6
  /-- `CMD_RESERVED_7` (R23). -/
  | cmdReserved7
  /-- `LIT v` (R95, R243). -/
  | lit (value : BitVec 8)
  /-- `MATCH d, l` (R96, R244). -/
  | matchTok (distance : BitVec 16) (length : BitVec 8)
  /-- `CODE c` at width 2 (R93). -/
  | codeW2 (code : BitVec 16)
  /-- `CODE c` at width 3 (R93). -/
  | codeW3 (code : BitVec 24)
  /-- `CODE c` at width 4 (R93). -/
  | codeW4 (code : BitVec 32)
  /-- The BMP file header record (R98, R143). -/
  | bmpFileHdr (fields : BmpFileFields)
  /-- The BMP info header record (R99, R147). -/
  | bmpInfoHdr (fields : BmpInfoFields)
  /-- The container header record (R100, R283). -/
  | cmptHdr (fields : CmptFields)
deriving DecidableEq, Repr

end Sys2Proof
end

