-- ==== Sys2Proof/Decode.lean ====
section
/-! DEFINITION. Integer assembly (spec/00_scope.md R10), the decoder of every row (spec/30_encoding.md R91 to R103)
and, after it, the encoder. Big-endian and little-endian readers are kept apart (spec/20_memory.md R63). -/

namespace Sys2Proof

/-! ### Integer conversions (R10) -/

/-- `be_N`: the first byte is the most significant. -/
def beNatFrom (acc : Nat) : Bytes → Nat
  | [] => acc
  | b :: bs => beNatFrom (acc * 256 + b.toNat) bs

/-- `be_N` of a whole byte string. -/
def beNat (bs : Bytes) : Nat := beNatFrom 0 bs

/-- `le_N`: the first byte is the least significant. -/
def leNat : Bytes → Nat
  | [] => 0
  | b :: bs => b.toNat + 256 * leNat bs

/-- The reading of a 32-bit pattern as two's complement, made explicitly (R10, R64, R355). -/
def sle32 (pattern : BitVec 32) : Int :=
  if pattern.toNat < 2 ^ 31 then (pattern.toNat : Int) else (pattern.toNat : Int) - 2 ^ 32

/-- `to_be(v, n)`. -/
def toBe : Nat → Nat → Bytes
  | 0, _ => []
  | n + 1, v => toBe n (v / 256) ++ [BitVec.ofNat 8 v]

/-- `to_le(v, n)`. -/
def toLe : Nat → Nat → Bytes
  | 0, _ => []
  | n + 1, v => BitVec.ofNat 8 v :: toLe n (v / 256)

/-- The `n` bytes of `bs` from offset `off`. -/
def slice (bs : Bytes) (off n : Nat) : Bytes := (bs.drop off).take n

/-- A little-endian u32 field at an offset (R103). -/
def leU32 (bs : Bytes) (off : Nat) : BitVec 32 := BitVec.ofNat 32 (leNat (slice bs off 4))

/-- A little-endian u16 field at an offset (R103). -/
def leU16 (bs : Bytes) (off : Nat) : BitVec 16 := BitVec.ofNat 16 (leNat (slice bs off 2))

/-- A u8 field at an offset. -/
def u8At (bs : Bytes) (off : Nat) : BitVec 8 := bs.getD off 0

/-! ### What the decoders read -/

/-- The kinds of unit the block decodes; which one stands at the input cursor is set outside the stream
(R97): by the host's start, by `CMD`, and for code words by the width. -/
inductive Stream where
  /-- A value of `CMD` (R91). -/
  | command
  /-- An LZ77 token (R94). -/
  | tokens
  /-- An LZW code word of the given width in bytes (R92). -/
  | codes (width : Nat)
  /-- The BMP file header (R98). -/
  | bmpFile
  /-- The BMP info header (R99). -/
  | bmpInfo
  /-- The container header (R100). -/
  | container
deriving DecidableEq, Repr

/-- Why a byte string holds no unit of a stream. -/
inductive Reject where
  /-- The unit extends beyond the input (R141, R145, R187, R247, R281). -/
  | truncated
  /-- A token's flag byte is 2 to 255 (R104, R249). -/
  | badFlag
  /-- The first two bytes are not "BM" (R142). -/
  | badSignature
  /-- The first four bytes are not "CMPT" (R281). -/
  | badMagic
  /-- No code word has this width (R93). -/
  | badWidth
  /-- A byte above 7 is no value of the 3-bit `CMD` (R91). -/
  | notACommand
deriving DecidableEq, Repr

/-- What a decoder answers: the unit and the bytes after it, or a rejection by name. -/
inductive Decoded where
  | unit (i : Instr) (rest : Bytes)
  | reject (r : Reject)
deriving DecidableEq, Repr

/-- The instruction of a value of `CMD` (R91). -/
def decodeCommand (c : BitVec 3) : Instr :=
  match c.toNat with
  | 0 => .cmdReserved0
  | 1 => .bmpParse
  | 2 => .lzwEnc
  | 3 => .lzwDec
  | 4 => .lz77Enc
  | 5 => .lz77Dec
  | 6 => .cmdReserved6
  | _ => .cmdReserved7

/-- A `CMD` value held in a byte: bits 2 to 0, the others 0. -/
def decodeCommandByte (bs : Bytes) : Decoded :=
  match bs with
  | [] => .reject .truncated
  | b :: rest => if b.toNat < 8 then .unit (decodeCommand (BitVec.ofNat 3 b.toNat)) rest else .reject .notACommand

/-- What stands at the cursor of a token stream (R97, R242): flag first, then the token's length (R249). -/
inductive TokenRead where
  | lit (value : BitVec 8) (rest : Bytes)
  | mtch (distance : BitVec 16) (length : BitVec 8) (rest : Bytes)
  | badFlag
  | truncated
deriving DecidableEq, Repr

/-- Reads one token (R95, R96, R102, R247, R249). -/
def readToken (bs : Bytes) : TokenRead :=
  match bs with
  | [] => .truncated
  | flag :: rest =>
    if flag = Config.lzFlagLit then
      match rest with
      | v :: rest' => .lit v rest'
      | [] => .truncated
    else if flag = Config.lzFlagMatch then
      match rest with
      | d1 :: d0 :: l :: rest' => .mtch (BitVec.ofNat 16 (beNat [d1, d0])) l rest'
      | _ => .truncated
    else .badFlag

/-- The token as an instruction. -/
def decodeToken (bs : Bytes) : Decoded :=
  match readToken bs with
  | .lit v rest => .unit (.lit v) rest
  | .mtch d l rest => .unit (.matchTok d l) rest
  | .badFlag => .reject .badFlag
  | .truncated => .reject .truncated

/-- A code word of width `w` (R93). -/
def decodeCode (w : Nat) (bs : Bytes) : Decoded :=
  if bs.length < w then .reject .truncated
  else
    let c := beNat (bs.take w)
    let rest := bs.drop w
    match w with
    | 2 => .unit (.codeW2 (BitVec.ofNat 16 c)) rest
    | 3 => .unit (.codeW3 (BitVec.ofNat 24 c)) rest
    | 4 => .unit (.codeW4 (BitVec.ofNat 32 c)) rest
    | _ => .reject .badWidth

/-- The fields of a BMP file header (R98, R143). -/
def bmpFileFields (bs : Bytes) : BmpFileFields :=
  { fileSize := leU32 bs 2, reserved1 := leU16 bs 6, reserved2 := leU16 bs 8, dataOffset := leU32 bs 10 }

/-- The BMP file header record: length before signature (R141, R142). -/
def decodeBmpFile (bs : Bytes) : Decoded :=
  if bs.length < Config.bmpFileHdrLen then .reject .truncated
  else if bs.take 2 = Config.bmpSignature then
    .unit (.bmpFileHdr (bmpFileFields bs)) (bs.drop Config.bmpFileHdrLen)
  else .reject .badSignature

/-- The eleven fields of a BMP info header, as patterns (R99, R147). -/
def bmpInfoFields (bs : Bytes) : BmpInfoFields :=
  { headerSize := leU32 bs 0, width := leU32 bs 4, height := leU32 bs 8, planes := leU16 bs 12,
    bitsPerPixel := leU16 bs 14, compression := leU32 bs 16, imageSize := leU32 bs 20,
    xPixelsPerMeter := leU32 bs 24, yPixelsPerMeter := leU32 bs 28, colorsUsed := leU32 bs 32,
    colorsImportant := leU32 bs 36 }

/-- The first 40 bytes of a BMP info header (R99). -/
def decodeBmpInfo (bs : Bytes) : Decoded :=
  if bs.length < Config.bmpInfoMin then .reject .truncated
  else .unit (.bmpInfoHdr (bmpInfoFields bs)) (bs.drop Config.bmpInfoMin)

/-- The fields of a container header (R100). -/
def cmptFields (bs : Bytes) : CmptFields :=
  { version := u8At bs 4, algorithmId := u8At bs 5, sideInfo := u8At bs 6, bitsPerPixel := u8At bs 7,
    width := leU32 bs 8, height := leU32 bs 12, payloadLength := leU32 bs 16 }

/-- The container header: magic before length (R281). -/
def decodeCmpt (bs : Bytes) : Decoded :=
  if bs.take 4 = Config.cmptMagic then
    if bs.length < Config.cmptHdrLen then .reject .truncated
    else .unit (.cmptHdr (cmptFields bs)) (bs.drop Config.cmptHdrLen)
  else .reject .badMagic

/-- THE DECODER: the unit at the head of a byte string, total on any bytes. -/
def decode (st : Stream) (bs : Bytes) : Decoded :=
  match st with
  | .command => decodeCommandByte bs
  | .tokens => decodeToken bs
  | .codes w => decodeCode w bs
  | .bmpFile => decodeBmpFile bs
  | .bmpInfo => decodeBmpInfo bs
  | .container => decodeCmpt bs

/-- How many bytes the longest unit of a stream takes. -/
def Stream.unitBytes : Stream → Nat
  | .command => 1
  | .tokens => 4
  | .codes w => w
  | .bmpFile => Config.bmpFileHdrLen
  | .bmpInfo => Config.bmpInfoMin
  | .container => Config.cmptHdrLen

/-! ### The encoder -/

/-- The value of `CMD` of a command row (R91). -/
def commandCode (i : Instr) : Option (BitVec 3) :=
  match i with
  | .cmdReserved0 => some 0
  | .bmpParse => some 1
  | .lzwEnc => some 2
  | .lzwDec => some 3
  | .lz77Enc => some 4
  | .lz77Dec => some 5
  | .cmdReserved6 => some 6
  | .cmdReserved7 => some 7
  | .lit _ => none
  | .matchTok _ _ => none
  | .codeW2 _ => none
  | .codeW3 _ => none
  | .codeW4 _ => none
  | .bmpFileHdr _ => none
  | .bmpInfoHdr _ => none
  | .cmptHdr _ => none

/-- The stream a row is a unit of. -/
def streamOf (i : Instr) : Stream :=
  match i with
  | .bmpParse => .command
  | .lzwEnc => .command
  | .lzwDec => .command
  | .lz77Enc => .command
  | .lz77Dec => .command
  | .cmdReserved0 => .command
  | .cmdReserved6 => .command
  | .cmdReserved7 => .command
  | .lit _ => .tokens
  | .matchTok _ _ => .tokens
  | .codeW2 _ => .codes 2
  | .codeW3 _ => .codes 3
  | .codeW4 _ => .codes 4
  | .bmpFileHdr _ => .bmpFile
  | .bmpInfoHdr _ => .bmpInfo
  | .cmptHdr _ => .container

/-- The 14 bytes of a BMP file header (R98). -/
def encodeBmpFile (f : BmpFileFields) : Bytes :=
  Config.bmpSignature ++ toLe 4 f.fileSize.toNat ++ toLe 2 f.reserved1.toNat ++ toLe 2 f.reserved2.toNat
    ++ toLe 4 f.dataOffset.toNat

/-- The first 40 bytes of a BMP info header (R99). -/
def encodeBmpInfo (f : BmpInfoFields) : Bytes :=
  toLe 4 f.headerSize.toNat ++ toLe 4 f.width.toNat ++ toLe 4 f.height.toNat ++ toLe 2 f.planes.toNat
    ++ toLe 2 f.bitsPerPixel.toNat ++ toLe 4 f.compression.toNat ++ toLe 4 f.imageSize.toNat
    ++ toLe 4 f.xPixelsPerMeter.toNat ++ toLe 4 f.yPixelsPerMeter.toNat ++ toLe 4 f.colorsUsed.toNat
    ++ toLe 4 f.colorsImportant.toNat

/-- The 20 bytes of a container header (R100, R272). -/
def encodeCmpt (f : CmptFields) : Bytes :=
  Config.cmptMagic ++ [f.version, f.algorithmId, f.sideInfo, f.bitsPerPixel]
    ++ toLe 4 f.width.toNat ++ toLe 4 f.height.toNat ++ toLe 4 f.payloadLength.toNat

/-- THE ENCODER: the bytes of an instruction, in stream order. -/
def encode (i : Instr) : Bytes :=
  match i with
  | .bmpParse => [1]
  | .lzwEnc => [2]
  | .lzwDec => [3]
  | .lz77Enc => [4]
  | .lz77Dec => [5]
  | .cmdReserved0 => [0]
  | .cmdReserved6 => [6]
  | .cmdReserved7 => [7]
  | .lit v => [Config.lzFlagLit, v]
  | .matchTok d l => Config.lzFlagMatch :: toBe 2 d.toNat ++ [l]
  | .codeW2 c => toBe 2 c.toNat
  | .codeW3 c => toBe 3 c.toNat
  | .codeW4 c => toBe 4 c.toNat
  | .bmpFileHdr f => encodeBmpFile f
  | .bmpInfoHdr f => encodeBmpInfo f
  | .cmptHdr f => encodeCmpt f

/-! ### Words numbered as spec/opcode_table.json numbers them -/

/-- The bytes of a table word: the table reads a unit as ONE big-endian number (R95, R96, R106), so the first byte
of the stream is the most significant. -/
def bytesOfTableWord (nbits w : Nat) : Bytes := toBe ((nbits + 7) / 8) w

/-- The streams tried for a word of `n` bytes, in order. A token's constant flag byte settles it before a code
word, whose bits are all one field (R93); which of the two a stream holds is otherwise set outside it (R97; log 12). -/
def tableStreams (n : Nat) : List Stream :=
  match n with
  | 1 => [.command]
  | 2 => [.tokens, .codes 2]
  | 3 => [.codes 3]
  | 4 => [.tokens, .codes 4]
  | 14 => [.bmpFile]
  | 20 => [.container]
  | 40 => [.bmpInfo]
  | _ => []

/-- The first stream whose decoder takes ALL the bytes. -/
def decodeFirst (bs : Bytes) : List Stream → Option Instr
  | [] => none
  | st :: sts =>
    match decode st bs with
    | .unit i [] => some i
    | _ => decodeFirst bs sts

/-- The instruction the decoder reads from the table's word `w` of `nbits` bits. -/
def decodeTableWord (nbits w : Nat) : Option Instr :=
  decodeFirst (bytesOfTableWord nbits w) (tableStreams ((nbits + 7) / 8))

end Sys2Proof
end

