-- ==== Sys2Proof/Machine/State.lean ====
section
/-! DEFINITION. The state of the codec block and of the host layer around it (spec/10_state.md, spec/20_memory.md
section 1, spec/44_container_host.md), why a step stops, and the machine right after reset (spec/10_state.md R42,
spec/70_reset_and_hazards.md R340). -/

namespace Sys2Proof.Machine

/-- A byte space: the written bytes by address, addresses strictly rising (R60). A byte nothing has written is
not listed and has no value (R42, R340; log 4). -/
abbrev Memory := List Host.Cell

/-- `STATUS` (R26). The register reads BUSY at `starting` and at `busy`. -/
inductive Status where
  | idle
  /-- BUSY, the start made and not yet taken up by the engine (log 2). -/
  | starting
  /-- BUSY, the operation in progress. -/
  | busy
  | done
  | error
deriving DecidableEq, Repr

/-- `ERR_KIND` (R27, R300). Values 5 to 7 are unused. -/
inductive ErrKind where
  /-- 0, no error. -/
  | none
  /-- `FormatError`. -/
  | format
  /-- `UnsupportedFormatError`. -/
  | unsupported
  /-- `CorruptionError`. -/
  | corruption
  /-- `IOError`, never raised (R306). -/
  | io
deriving DecidableEq, Repr

/-- `ERR_CAUSE` (R27, R301 to R303), in the order of its numbers. -/
inductive ErrCause where
  | none
  | bmpShortFileHeader
  | bmpBadSignature
  | bmpShortInfoHeader
  | bmpInfoTooSmall
  | cmptBadVersion
  | cmptBadAlgorithm
  | lzwBadWidth
  | lzwBadLength
  | lzwBadCode
  | lzBadFlag
  | lzTruncated
  | lzBadDistance
  | cmptBadMagic
  | cmptTruncated
  | cmptLengthMismatch
deriving DecidableEq, Repr

/-- The result record `BMPFileHeader` (R36). -/
structure BmpFileHeader where
  signature  : Byte × Byte
  fileSize   : BitVec 32
  reserved1  : BitVec 16
  reserved2  : BitVec 16
  dataOffset : BitVec 32
deriving DecidableEq, Repr

/-- The result record `BMPInfoHeader` (R37). A signed field is delivered as an integer (D36). -/
structure BmpInfoHeader where
  headerSize      : BitVec 32
  width           : Int
  height          : Int
  planes          : BitVec 16
  bitsPerPixel    : BitVec 16
  compression     : BitVec 32
  imageSize       : BitVec 32
  xPixelsPerMeter : Int
  yPixelsPerMeter : Int
  colorsUsed      : BitVec 32
  colorsImportant : BitVec 32
deriving DecidableEq, Repr

/-- The file header record before any parse. DESIGN CHOICE (log 5): all zero. -/
def BmpFileHeader.blank : BmpFileHeader := ⟨(0, 0), 0, 0, 0, 0⟩

/-- The info header record before any parse. DESIGN CHOICE (log 5): all zero. -/
def BmpInfoHeader.blank : BmpInfoHeader := ⟨0, 0, 0, 0, 0, 0, 0, 0, 0, 0, 0⟩

/-- Where a call of the host layer stands (log 16). -/
inductive CmptPhase where
  /-- No call. -/
  | idle
  /-- `CMPT_SAVE` is called, its arguments not yet checked (R279). -/
  | saveStart
  /-- `CMPT_SAVE` has started the codec (R273). -/
  | saveCodec
  /-- `CMPT_LOAD` is called, the header not yet read (R281). -/
  | loadHeader
  /-- `CMPT_LOAD` has started the codec (R283). -/
  | loadCodec
deriving DecidableEq, Repr

/-- What the last call of the host layer returned. -/
inductive CmptResult where
  /-- No call has ended yet. -/
  | none
  /-- `CMPT_SAVE` (R277); its file `F` is `Cmpt.file`. -/
  | saved (originalSize compressedSize : Nat) (elapsed : Nat × Nat)
  /-- `CMPT_LOAD`, outcome Ok (R280). -/
  | loaded (width height bitsPerPixel : Nat) (pixels : Bytes)
  /-- `CMPT_LOAD`, outcome Error (R286). -/
  | failed (kind : ErrKind) (cause : ErrCause)
deriving DecidableEq, Repr

/-- The host layer: the arguments and parsed header fields of one call (R39, R271, R283) and its result. -/
structure Cmpt where
  phase  : CmptPhase
  width  : Nat
  height : Nat
  bpp    : Nat
  alg    : Nat
  pixels : Bytes
  file   : Bytes
  result : CmptResult
deriving DecidableEq, Repr

/-- The machine's state. -/
structure State where
  /-- The open parameters of R8; no step writes them (log 7). -/
  params : Config.Params
  /-- `CMD` (R22, R23). -/
  cmd : BitVec 3
  /-- `SIDE` (R22, R24). -/
  side : BitVec 8
  /-- Whether `SIDE` has been written (R342; log 5). -/
  sideWritten : Bool
  /-- `IN_LEN` (R22, R25). -/
  inLen : Nat
  /-- `OUT_LEN` (R22, R25), the decode cursor (R34). -/
  outLen : Nat
  /-- `STATUS` (R22, R26). -/
  status : Status
  /-- `ERR_KIND` (R22, R27). -/
  errKind : ErrKind
  /-- `ERR_CAUSE` (R22, R27). -/
  errCause : ErrCause
  /-- The host's move "start" (R345), not yet taken up; `STATUS` is then `starting` (log 2). -/
  start : Bool
  /-- `IN` (R60). -/
  inp : Memory
  /-- `OUT` (R60). -/
  out : Memory
  /-- Whether the platform placed `IN` and `OUT` in overlapping storage (R72; log 6). -/
  overlap : Bool
  /-- The record `BMPFileHeader` (R36). -/
  bmpFile : BmpFileHeader
  /-- The record `BMPInfoHeader` (R37). -/
  bmpInfo : BmpInfoHeader
  /-- Whether a `BMP_PARSE` has delivered the records (R42; log 5). -/
  recordsWritten : Bool
  /-- The input cursor `ip`, `pos` of the window encoder (R28, R33). -/
  ip : Nat
  /-- `next_code` (R29, R32). -/
  nextCode : Nat
  /-- `DICT`, newest binding first (R29, R30). -/
  dict : List (Phrase × Nat)
  /-- `w` (R29). -/
  w : Phrase
  /-- `CODES` (R29, R38). -/
  codes : List Nat
  /-- `TABLE`, newest binding first (R32). -/
  table : List (Nat × Phrase)
  /-- `prev` (R32). -/
  prev : Option Phrase
  /-- `W` of `LZW_DEC` (R32, R186). -/
  width : Nat
  /-- `fh` of `BMP_PARSE`, the file header read and not yet delivered (R152; log 9). -/
  fh : BmpFileHeader
  /-- The host layer (log 16). -/
  cmpt : Cmpt
  /-- How many free values have been drawn (log 8). -/
  draws : Nat
deriving DecidableEq, Repr

/-- A read of something that has no value, or that the spec does not allow. Each is SAFE: the model stops where
hardware would go on with a value the spec does not give. -/
inductive Fault where
  /-- A byte of `IN` or `OUT` that nothing has written is read (R42, R340, U23). Raised by the engine's and the
  host layer's reads. Safe. -/
  | unwrittenByte
  /-- `DICT[w]` is read and `w` is no key of `DICT`. Raised by `LZW_ENC`, in states R29 (i) rules out. Safe. -/
  | unboundPhrase
  /-- `TABLE[code]` is read below `next_code` and is not bound. Raised by code words, in states R189 rules out. Safe. -/
  | unboundCode
  /-- `first(p)` of the empty string (R9 defines it for `|s| >= 1`). Raised by code words, in states R32 rules
  out. Safe. -/
  | emptyPhrase
  /-- A result is read while `STATUS` does not allow it (R70). Raised by the host's reads. Safe. -/
  | readNotPermitted
  /-- The header records are read before a successful `BMP_PARSE` (R42). Raised by the host's reads. Safe. -/
  | recordUnwritten
deriving DecidableEq, Repr

/-- An input outside the domain the spec gives a meaning (R13, outcome Refused). Each is SAFE: nothing is proved
of what hardware does there. -/
inductive Refusal where
  /-- An instruction without a meaning yet; no arm answers it. Raised by `exec` only. Safe. -/
  | notModelled (mnemonic : String)
  /-- A launch with a reserved value of `CMD` (R23). Raised by the three reserved commands. Safe. -/
  | reservedCommand
  /-- A start, or another move of the host, while `STATUS = BUSY` or during a call of the host layer (R26, R70,
  D34). Raised by commands and by the host's moves. Safe. -/
  | hostMoveWhileBusy
  /-- `IN_LEN > MAX_INPUT_LEN` (R25, R342). Raised by a launch. Safe. -/
  | inputTooLong
  /-- `IN` and `OUT` overlap (R72, R342). Raised by a launch. Safe. -/
  | buffersOverlap
  /-- `IN[0..IN_LEN)` has not been written (R342). Raised by a launch. Safe. -/
  | inputUnwritten
  /-- `SIDE` has not been written before `LZW_DEC` (R342). Raised by a launch. Safe. -/
  | sideUnwritten
  /-- `SIDE` is not 2, 3 or 4 under `LZW_DEC_WIDTH_POLICY = refuse` (R186). Raised by `LZW_DEC`. Safe. -/
  | badWidth
  /-- The output would exceed a finite `OUT_CAP` (D6). Raised by every append. Safe. -/
  | outCapExceeded
  /-- The dictionary would exceed a finite `DICT_CAP` (D7). Raised by the dictionary codec. Safe. -/
  | dictCapExceeded
  /-- The largest emitted code is 2^32 or more (R184, D11). Raised by `LZW_ENC`. Safe. -/
  | codeTooWide
  /-- A stream unit or record outside the operation that executes it (the table's `executed_by`). Raised by
  units; `step` never fetches one there. Safe. -/
  | unitOutsideOperation
  /-- An argument of `CMPT_SAVE` does not fit its header field, or the algorithm choice is not 1 or 2 (R273,
  R274). Raised by the host layer. Safe. -/
  | saveArgument
  /-- The payload of `CMPT_SAVE` has 2^32 bytes or more (R274). Raised by the host layer. Safe. -/
  | payloadTooLong
deriving DecidableEq, Repr

/-- The outcome of a step of this machine. -/
abbrev Outcome := Host.Outcome State Fault Refusal

/-- The host layer after reset: no call, nothing returned (log 3, log 16). -/
def Cmpt.reset : Cmpt :=
  { phase := .idle, width := 0, height := 0, bpp := 0, alg := 0, pixels := [], file := [], result := .none }

/-- The machine right after reset. `STATUS`, `ERR_KIND`, `ERR_CAUSE` and `OUT_LEN` have the values of R42 and R340;
the memories list nothing; the parameters are the spec's defaults (R8). Every other value is a DESIGN CHOICE: the
spec gives none (log 3, log 5, log 6). -/
def State.reset : State :=
  { params := Config.Params.default
    cmd := 0, side := 0, sideWritten := false, inLen := 0, outLen := 0
    status := .idle, errKind := .none, errCause := .none, start := false
    inp := [], out := [], overlap := false
    bmpFile := BmpFileHeader.blank, bmpInfo := BmpInfoHeader.blank, recordsWritten := false
    ip := 0, nextCode := Config.lzwFirstCode, dict := [], w := [], codes := []
    table := [], prev := none, width := 0, fh := BmpFileHeader.blank
    cmpt := Cmpt.reset, draws := 0 }

end Sys2Proof.Machine
end

