-- ==== Sys2Proof/Machine/Flags.lean ====
section
/-! DEFINITION. The block's only flags: `STATUS`, `ERR_KIND` and `ERR_CAUSE` as the numbers the host reads
(spec/10_state.md R26, R27; spec/60_exceptions.md R300 to R303), and the kind of each cause. The block has no
arithmetic condition codes. -/

namespace Sys2Proof.Machine

/-- The 2-bit value of `STATUS` (R26). -/
def Status.bits : Status → BitVec 2
  | .idle => 0
  | .starting => 1
  | .busy => 1
  | .done => 2
  | .error => 3

/-- The 3-bit value of `ERR_KIND` (R300). -/
def ErrKind.bits : ErrKind → BitVec 3
  | .none => 0
  | .format => 1
  | .unsupported => 2
  | .corruption => 3
  | .io => 4

/-- The 5-bit value of `ERR_CAUSE` (R301 to R303). -/
def ErrCause.bits : ErrCause → BitVec 5
  | .none => 0
  | .bmpShortFileHeader => 1
  | .bmpBadSignature => 2
  | .bmpShortInfoHeader => 3
  | .bmpInfoTooSmall => 4
  | .cmptBadVersion => 5
  | .cmptBadAlgorithm => 6
  | .lzwBadWidth => 7
  | .lzwBadLength => 8
  | .lzwBadCode => 9
  | .lzBadFlag => 10
  | .lzTruncated => 11
  | .lzBadDistance => 12
  | .cmptBadMagic => 13
  | .cmptTruncated => 14
  | .cmptLengthMismatch => 15

/-- The kind a cause belongs to (R301, R302, R303). -/
def ErrCause.kind : ErrCause → ErrKind
  | .none => .none
  | .bmpShortFileHeader => .format
  | .bmpBadSignature => .format
  | .bmpShortInfoHeader => .format
  | .bmpInfoTooSmall => .unsupported
  | .cmptBadVersion => .unsupported
  | .cmptBadAlgorithm => .unsupported
  | .lzwBadWidth => .corruption
  | .lzwBadLength => .corruption
  | .lzwBadCode => .corruption
  | .lzBadFlag => .corruption
  | .lzTruncated => .corruption
  | .lzBadDistance => .corruption
  | .cmptBadMagic => .corruption
  | .cmptTruncated => .corruption
  | .cmptLengthMismatch => .corruption

end Sys2Proof.Machine
end

