-- ==== Sys2Proof/Machine/Ops.lean ====
section
/-! DEFINITION. The named operations over memories, tables and registers that the meanings share, among them the
start of an operation (spec/10_state.md R42, spec/70_reset_and_hazards.md R341, R342) and the entry into an error
(spec/60_exceptions.md R314). -/

namespace Sys2Proof.Machine

/-! ### Byte spaces (R60, R66, R67) -/

/-- The canonical form of a byte space: addresses strictly rising. Every listed byte is written, so none equals
what an unlisted address reads as. -/
def Memory.wf : Memory → Bool
  | [] => true
  | [_] => true
  | (a, _) :: (b, y) :: m => decide (a < b) && Memory.wf ((b, y) :: m)

/-- Reads one byte; `none` is a byte nothing has written. A read changes nothing (R67). -/
def Memory.read : Memory → Nat → Option Byte
  | [], _ => none
  | (x, b) :: m, a => if x = a then some b else Memory.read m a

/-- Writes one byte, keeping the addresses rising. -/
def Memory.write : Memory → Nat → Byte → Memory
  | [], a, v => [(a, v)]
  | (x, b) :: m, a, v =>
    if a < x then (a, v) :: (x, b) :: m
    else if a = x then (a, v) :: m
    else (x, b) :: Memory.write m a v

/-- `MemRead(m, a, n)` as single bytes in increasing address order (R11, R66). -/
def Memory.readBytes (m : Memory) : Nat → Nat → Option Bytes
  | _, 0 => some []
  | a, n + 1 =>
    match m.read a with
    | none => none
    | some b =>
      match Memory.readBytes m (a + 1) n with
      | none => none
      | some bs => some (b :: bs)

/-- `MemWrite(m, a, n, v)` as single bytes in increasing address order (R11, R66). -/
def Memory.writeBytes (m : Memory) : Nat → Bytes → Memory
  | _, [] => m
  | a, b :: bs => Memory.writeBytes (m.write a b) (a + 1) bs

/-! ### The dictionary codec's tables (R29, R32) -/

/-- `DICT[p]`. -/
def dictLookup : List (Phrase × Nat) → Phrase → Option Nat
  | [], _ => none
  | (q, c) :: d, p => if q = p then some c else dictLookup d p

/-- `TABLE[c]`. -/
def tableLookup : List (Nat × Phrase) → Nat → Option Phrase
  | [], _ => none
  | (d, p) :: t, c => if d = c then some p else tableLookup t c

/-- The 256 seed bindings of `DICT` (R171). -/
def seedDict : List (Phrase × Nat) :=
  (List.range Config.lzwSeedCount).map fun v => ([BitVec.ofNat 8 v], v)

/-- The 256 seed bindings of `TABLE` (R188). -/
def seedTable : List (Nat × Phrase) :=
  (List.range Config.lzwSeedCount).map fun v => (v, [BitVec.ofNat 8 v])

/-- Whether one more entry fits `DICT_CAP` beside `entries` entries (D7). -/
def dictFits (p : Config.Params) (entries : Nat) : Bool :=
  match p.dictCap with
  | none => true
  | some cap => decide (entries < cap)

/-! ### Outcomes -/

/-- Goes on with `f` at a next state, and stops where `o` stopped. -/
def andThen (o : Outcome) (f : State → Outcome) : Outcome :=
  match o with
  | .next s => f s
  | .fault r => .fault r
  | .refused r => .refused r

/-! ### The values of CMD (R91) -/

/-- `BMP_PARSE`. -/
def cmdBmpParse : BitVec 3 := 1
/-- `LZW_ENC`. -/
def cmdLzwEnc : BitVec 3 := 2
/-- `LZW_DEC`. -/
def cmdLzwDec : BitVec 3 := 3
/-- `LZ77_ENC`. -/
def cmdLz77Enc : BitVec 3 := 4
/-- `LZ77_DEC`. -/
def cmdLz77Dec : BitVec 3 := 5

/-! ### Reading IN, appending to OUT -/

/-- The byte string `IN[0..IN_LEN)` (R25), if all of it has been written. -/
def State.inputBytes (s : State) : Option Bytes := s.inp.readBytes 0 s.inLen

/-- The byte string `OUT[0..OUT_LEN)` (R25). -/
def State.outputBytes (s : State) : Option Bytes := s.out.readBytes 0 s.outLen

/-- Whether `OUT` holds `n` bytes under `OUT_CAP` (D6). -/
def outFits (p : Config.Params) (n : Nat) : Bool :=
  match p.outCap with
  | none => true
  | some cap => decide (n ≤ cap)

/-- The state after an append: the bytes stand at `OUT_LEN` and on, and `OUT_LEN` has grown by their number (R11). -/
def State.appended (s : State) (bs : Bytes) : State :=
  { s with out := s.out.writeBytes s.outLen bs, outLen := s.outLen + bs.length }

/-- `emit(v)` (R11), refused where a finite `OUT_CAP` has no room (D6). -/
def emit (bs : Bytes) (s : State) : Outcome :=
  if outFits s.params (s.outLen + bs.length) then .next (s.appended bs) else .refused .outCapExceeded

/-- `ip <- ip + n` (R28). -/
def State.advance (s : State) (n : Nat) : State := { s with ip := s.ip + n }

/-! ### Error entry and end (R314, R316, R343) -/

/-- TAKING AN ERROR (R314): `STATUS <- ERROR`, the kind and cause, `OUT_LEN <- 0`; `SIDE`, the records and `IN`
stay; the bytes already in `OUT` and the working state are left where they are and are never read again
(log 15). Nothing is saved and there is no handler, so there is nothing to return from (R316): the next start
finds the machine as after a success. -/
def State.raiseError (s : State) (c : ErrCause) : State :=
  { s with status := .error, errKind := c.kind, errCause := c, outLen := 0 }

/-- `raise` (R11). -/
def raise (c : ErrCause) (s : State) : Outcome := .next (s.raiseError c)

/-- Outcome Ok (R26, R343). -/
def State.finished (s : State) : State := { s with status := .done }

/-! ### Start of an operation (R42, R341, R342) -/

/-- The premises of R342 for a start of the operation `c`, `STATUS` and a reserved `CMD` apart: the first that
fails. A finite `DICT_CAP` must hold the seeds of the two dictionary operations (D7). -/
def launchRefusal (c : BitVec 3) (s : State) : Option Refusal :=
  if s.params.maxInputLen < s.inLen then some .inputTooLong
  else if s.overlap then some .buffersOverlap
  else if s.inputBytes = none then some .inputUnwritten
  else if c = cmdLzwDec ∧ s.sideWritten = false then some .sideUnwritten
  else if (c = cmdLzwEnc ∨ c = cmdLzwDec) ∧ dictFits s.params (Config.lzwSeedCount - 1) = false then
    some .dictCapExceeded
  else none

/-- The state at the start of the operation `c` (R42, R341): `STATUS = BUSY`, no error, `OUT_LEN = 0`, and the same
working state whatever ran before. The working state of the other operations is cleared. -/
def State.started (s : State) (c : BitVec 3) : State :=
  { s with
    cmd := c, start := false, status := .busy, errKind := .none, errCause := .none, outLen := 0
    ip := 0, nextCode := Config.lzwFirstCode, w := [], codes := [], prev := none
    dict := if c = cmdLzwEnc then seedDict else []
    table := if c = cmdLzwDec then seedTable else []
    width := if c = cmdLzwDec then s.side.toNat else 0
    fh := BmpFileHeader.blank }

/-- The host's start of the operation in `CMD` (R26, R345), not yet taken up by the engine: `STATUS` reads BUSY, and
with the result before it gone there is no error and no output (R25, R27, R42; log 2). -/
def State.starting (s : State) : State :=
  { s with start := true, status := .starting, errKind := .none, errCause := .none, outLen := 0 }

/-- The engine takes up the start of the operation `c` (R342). -/
def launch (c : BitVec 3) (s : State) : Outcome :=
  match launchRefusal c s with
  | some r => .refused r
  | none => .next (s.started c)

/-- A command: launched when the block is not BUSY; one micro-step of it when it is the operation that runs (R6,
R26); refused when another one runs, for the host has no such move (D34). -/
def command (c : BitVec 3) (microStep : State → Outcome) (s : State) : Outcome :=
  if s.status = .busy then
    if s.cmd = c then microStep s else .refused .hostMoveWhileBusy
  else launch c s

/-- Whether the operation `c` runs. -/
def State.runs (s : State) (c : BitVec 3) : Bool := decide (s.status = .busy ∧ s.cmd = c)

end Sys2Proof.Machine
end

