-- ==== Sys2Proof/Machine/Operands.lean ====
section
/-! DEFINITION. The operand forms: what the running operation reads of `IN` at the input cursor
(spec/10_state.md R28, spec/30_encoding.md R97, R102). -/

namespace Sys2Proof.Machine

/-- At most `n` bytes at the cursor, none at or beyond `IN_LEN` (R25); `none` where one of them was never written. -/
def State.bytesAtCursor (s : State) (n : Nat) : Option Bytes := s.inp.readBytes s.ip (min n (s.inLen - s.ip))

/-- The stream whose unit the running operation reads at the cursor; the encoders read bytes, not units. The BMP
file header is read at address 0 and the info header after it (R68). -/
def State.streamAtCursor (s : State) : Option Stream :=
  if s.cmd = cmdBmpParse then (if s.ip = 0 then some .bmpFile else some .bmpInfo)
  else if s.cmd = cmdLzwDec then some (.codes s.width)
  else if s.cmd = cmdLz77Dec then some .tokens
  else none

/-- Runs `f` on at most `n` bytes at the cursor. -/
def withBytes (s : State) (n : Nat) (f : Bytes → Outcome) : Outcome :=
  match s.bytesAtCursor n with
  | none => .fault .unwrittenByte
  | some bs => f bs

end Sys2Proof.Machine
end

