-- ==== Sys2Proof/Machine/Bmp.lean ====
section
/-! DEFINITION. The BMP header parser: `BMP_PARSE` and the two records it reads (spec/41_bmp_header_parser.md R140 to
R155; layouts spec/30_encoding.md R98, R99). -/

namespace Sys2Proof.Machine

/-- The record `BMPFileHeader` of the fields read (R143). The signature is "BM": nothing else gets here (R142). -/
def fileHeaderOf (f : BmpFileFields) : BmpFileHeader :=
  { signature := (0x42, 0x4D), fileSize := f.fileSize, reserved1 := f.reserved1, reserved2 := f.reserved2,
    dataOffset := f.dataOffset }

/-- The record `BMPInfoHeader` of the fields read: `sle_32` for the four signed ones (R147, R355). -/
def infoHeaderOf (f : BmpInfoFields) : BmpInfoHeader :=
  { headerSize := f.headerSize, width := sle32 f.width, height := sle32 f.height, planes := f.planes,
    bitsPerPixel := f.bitsPerPixel, compression := f.compression, imageSize := f.imageSize,
    xPixelsPerMeter := sle32 f.xPixelsPerMeter, yPixelsPerMeter := sle32 f.yPixelsPerMeter,
    colorsUsed := f.colorsUsed, colorsImportant := f.colorsImportant }

/-- How many bytes the third read takes (R145): none for a `header_size` below 4. -/
def infoRest (headerSize : Nat) : Nat := if 4 ≤ headerSize then headerSize - 4 else 0

/-- The checks of the info header in their order: room for `header_size` (R144), room for the rest (R145), then its
size (R146). -/
def infoCause (inLen headerSize : Nat) : Option ErrCause :=
  if inLen < 18 then some .bmpShortInfoHeader
  else if inLen < 18 + infoRest headerSize then some .bmpShortInfoHeader
  else if headerSize < Config.bmpInfoMin then some .bmpInfoTooSmall
  else none

/-- The first read (R141, R142, R143): the fields are held, the records are not yet written (R151). -/
def readFileHeader (f : BmpFileFields) (s : State) : Outcome :=
  if s.inLen < Config.bmpFileHdrLen then raise .bmpShortFileHeader s
  else .next { s with fh := fileHeaderOf f, ip := Config.bmpFileHdrLen }

/-- The second and third read, the size test and, at outcome Ok, both records at once (R144 to R150; log 10). -/
def readInfoHeader (f : BmpInfoFields) (s : State) : Outcome :=
  match infoCause s.inLen f.headerSize.toNat with
  | some c => raise c s
  | none =>
    .next { s with
      bmpFile := s.fh, bmpInfo := infoHeaderOf f, recordsWritten := true
      ip := Config.bmpFileHdrLen + f.headerSize.toNat, status := .done }

/-- One micro-step of `BMP_PARSE` from the bytes of `IN` (R152). -/
def bmpParseStep (s : State) : Outcome :=
  if s.ip = 0 then
    if s.inLen < Config.bmpFileHdrLen then raise .bmpShortFileHeader s
    else withBytes s Config.bmpFileHdrLen fun bs =>
      if bs.take 2 = Config.bmpSignature then readFileHeader (bmpFileFields bs) s
      else raise .bmpBadSignature s
  else if s.inLen < 18 then raise .bmpShortInfoHeader s
  else withBytes s 4 fun hs =>
    match infoCause s.inLen (leNat hs) with
    | some c => raise c s
    | none => withBytes s Config.bmpInfoMin fun bs => readInfoHeader (bmpInfoFields bs) s

/-- `BMP_PARSE` (R140, R152). -/
def execBmpParse (s : State) : Outcome := command cmdBmpParse bmpParseStep s

/-- The record `BMP_FILE_HDR`, read by `BMP_PARSE` at address 0 (R143). -/
def execBmpFileHdr (f : BmpFileFields) (s : State) : Outcome :=
  if s.runs cmdBmpParse ∧ s.ip = 0 then readFileHeader f s else .refused .unitOutsideOperation

/-- The record `BMP_INFO_HDR`, read by `BMP_PARSE` at address 14 (R144 to R150). -/
def execBmpInfoHdr (f : BmpInfoFields) (s : State) : Outcome :=
  if s.runs cmdBmpParse ∧ s.ip = Config.bmpFileHdrLen then readInfoHeader f s
  else .refused .unitOutsideOperation

/-! ### Names of the compression codes (R153) -/

/-- The named values of `compression`; labels only, the parser treats all values alike (R153). -/
inductive Compression where
  | uncompressed
  | rle8
  | rle4
  | bitfields
  | jpeg
  | png
deriving DecidableEq, Repr

/-- The name of a compression code; 6 and up have none (R104, R153). -/
def compressionName (c : BitVec 32) : Option Compression :=
  match c.toNat with
  | 0 => some .uncompressed
  | 1 => some .rle8
  | 2 => some .rle4
  | 3 => some .bitfields
  | 4 => some .jpeg
  | 5 => some .png
  | _ => none

end Sys2Proof.Machine
end

