-- ==== Sys2Proof/Machine/Container.lean ====
section
/-! DEFINITION. The container host layer: the record `CMPT_HDR` and the calls `CMPT_SAVE` and `CMPT_LOAD` around the
block (spec/44_container_host.md R270 to R289). The host layer acts only while the block is not BUSY; it drives the
block through the registers of R22 and reads its result as R70 allows (log 16). -/

namespace Sys2Proof.Machine

/-- `ceil_div(bits, 8)` (R10, R284). -/
def bytesPerPixel (bits : Nat) : Nat := (bits + 7) / 8

/-- `width * height * ceil_div(bits_per_pixel, 8)`, exact (R283, D26). -/
def expectedLength (width height bits : Nat) : Nat := width * height * bytesPerPixel bits

/-- A call ends with an error (R286); the block's registers stay as they are. -/
def State.callFailed (s : State) (kind : ErrKind) (cause : ErrCause) : State :=
  { s with cmpt := { s.cmpt with phase := .idle, result := .failed kind cause } }

/-- `raise` in the host layer. -/
def failCall (c : ErrCause) (s : State) : Outcome := .next (s.callFailed c.kind c)

/-- The host layer loads `IN`, writes `IN_LEN` and `CMD` and starts the block (R345). -/
def State.codecStarted (s : State) (c : BitVec 3) (input : Bytes) : State :=
  { s.starting with inp := s.inp.writeBytes 0 input, inLen := input.length, cmd := c }

/-! ### CMPT_LOAD -/

/-- The parsed header fields, held for the rest of the call (R39, R283). -/
def loadArgs (h : CmptFields) (c : Cmpt) : Cmpt :=
  { c with
    phase := .loadCodec, width := h.width.toNat, height := h.height.toNat, bpp := h.bitsPerPixel.toNat,
    alg := h.algorithmId.toNat }

/-- The header read: version, algorithm, payload length; then the codec is started on the payload, with the stored
side info for the dictionary codec and without it for the window codec (R282, R283, R241). -/
def loadFromHeader (h : CmptFields) (s : State) : Outcome :=
  if h.version.toNat ≠ Config.cmptVersion then failCall .cmptBadVersion s
  else if h.algorithmId.toNat ≠ Config.algDict ∧ h.algorithmId.toNat ≠ Config.algWindow then
    failCall .cmptBadAlgorithm s
  else if s.cmpt.file.length < Config.cmptHdrLen + h.payloadLength.toNat then failCall .cmptTruncated s
  else
    let payload := slice s.cmpt.file Config.cmptHdrLen h.payloadLength.toNat
    if h.algorithmId.toNat = Config.algDict then
      .next { s.codecStarted cmdLzwDec payload with side := h.sideInfo, sideWritten := true, cmpt := loadArgs h s.cmpt }
    else .next { s.codecStarted cmdLz77Dec payload with cmpt := loadArgs h s.cmpt }

/-- The end of `CMPT_LOAD`: a codec error propagates unchanged (R317); otherwise the decoded length is checked
(R283). -/
def loadFinish (s : State) : Outcome :=
  match s.status with
  | .error => .next (s.callFailed s.errKind s.errCause)
  | .done =>
    match s.outputBytes with
    | none => .fault .unwrittenByte
    | some pixels =>
      if pixels.length = expectedLength s.cmpt.width s.cmpt.height s.cmpt.bpp then
        .next { s with cmpt := { s.cmpt with
          phase := .idle, result := .loaded s.cmpt.width s.cmpt.height s.cmpt.bpp pixels } }
      else failCall .cmptLengthMismatch s
  | .idle => .fault .readNotPermitted
  | .starting => .fault .readNotPermitted
  | .busy => .fault .readNotPermitted

/-! ### CMPT_SAVE -/

/-- The start of `CMPT_SAVE` (R273, R274, R279): the arguments must fit their fields; the length of the pixels is
not compared with anything (R275). -/
def saveStart (s : State) : Outcome :=
  if (s.cmpt.alg = Config.algDict ∨ s.cmpt.alg = Config.algWindow) ∧ s.cmpt.width < 2 ^ 32
      ∧ s.cmpt.height < 2 ^ 32 ∧ s.cmpt.bpp ≤ 255 then
    let c := if s.cmpt.alg = Config.algDict then cmdLzwEnc else cmdLz77Enc
    .next { s.codecStarted c s.cmpt.pixels with cmpt := { s.cmpt with phase := .saveCodec } }
  else .refused .saveArgument

/-- The header `CMPT_SAVE` writes (R272). -/
def saveHeader (s : State) : CmptFields :=
  { version := BitVec.ofNat 8 Config.cmptVersion, algorithmId := BitVec.ofNat 8 s.cmpt.alg, sideInfo := s.side,
    bitsPerPixel := BitVec.ofNat 8 s.cmpt.bpp, width := BitVec.ofNat 32 s.cmpt.width,
    height := BitVec.ofNat 32 s.cmpt.height, payloadLength := BitVec.ofNat 32 s.outLen }

/-- The end of `CMPT_SAVE`: the header and then the payload, and the values returned, `elapsed` among them as a
free value (R271, R276, R277, R328). -/
def writeFile (h : CmptFields) (s : State) : Outcome :=
  if s.status = .done then
    match s.outputBytes with
    | none => .fault .unwrittenByte
    | some payload =>
      .next { s with
        draws := s.draws + 1
        cmpt := { s.cmpt with
          phase := .idle, file := encodeCmpt h ++ payload
          result := .saved s.cmpt.pixels.length payload.length (Config.elapsed s.draws) } }
  else .fault .readNotPermitted

/-- `CMPT_HDR` (R100): read by `CMPT_LOAD`, written by `CMPT_SAVE`. -/
def execCmptHdr (h : CmptFields) (s : State) : Outcome :=
  if s.status = .busy ∨ s.start = true then .refused .unitOutsideOperation
  else
    match s.cmpt.phase with
    | .loadHeader => loadFromHeader h s
    | .saveCodec => writeFile h s
    | .idle => .refused .unitOutsideOperation
    | .saveStart => .refused .unitOutsideOperation
    | .loadCodec => .refused .unitOutsideOperation

end Sys2Proof.Machine
end

