-- ==== Sys2Proof/Machine/Lz77.lean ====
section
/-! DEFINITION. The window-match codec: `LZ77_ENC`, `LZ77_DEC` and the two tokens (spec/43_window_match_codec.md R220
to R255; spec/30_encoding.md R94 to R97). -/

namespace Sys2Proof.Machine

/-! ### LZ77_ENC -/

/-- The length of the longest common prefix of two byte strings, at most `n`. -/
def commonPrefix : Nat → Bytes → Bytes → Nat
  | n + 1, a :: as, b :: bs => if a = b then commonPrefix n as bs + 1 else 0
  | _, _, _ => 0

/-- `mlen(d)` at `pos` (R224): the earlier run is read in the input itself and may run into and past `pos`; the
run at `pos` ends with the input. -/
def matchLen (input : Bytes) (pos d : Nat) : Nat :=
  commonPrefix Config.lzMaxMatch (input.drop (pos - d)) (input.drop pos)

/-- Whether a candidate of length `l` replaces a best one of length `best` at a smaller distance (R225, D14). -/
def replaces (tb : Config.TieBreak) (best l : Nat) : Bool :=
  match tb with
  | .smallestDistance => decide (best < l)
  | .largestDistance => decide (best ≤ l ∧ 0 < l)

/-- `(best_len, best_dist)` over the distances 1 to `n`, nearest first (R225, R229). -/
def bestOf (tb : Config.TieBreak) (input : Bytes) (pos : Nat) : Nat → Nat × Nat
  | 0 => (0, 0)
  | n + 1 =>
    let best := bestOf tb input pos n
    let l := matchLen input pos (n + 1)
    if replaces tb best.1 l then (l, n + 1) else best

/-- `(best_len, best_dist)` at `pos`: the candidates are the distances 1 to `min(pos, 4096)` (R223). -/
def bestMatch (tb : Config.TieBreak) (input : Bytes) (pos : Nat) : Nat × Nat :=
  bestOf tb input pos (min pos Config.lzWindow)

/-- The bytes of the token at `pos` and how far `pos` moves (R226, R227). -/
def tokenAt (tb : Config.TieBreak) (input : Bytes) (pos : Nat) : Bytes × Nat :=
  let best := bestMatch tb input pos
  if Config.lzMinMatch ≤ best.1 then
    (Config.lzFlagMatch :: toBe 2 best.2 ++ [BitVec.ofNat 8 best.1], best.1)
  else (Config.lzFlagLit :: slice input pos 1, 1)

/-- One micro-step of `LZ77_ENC` (R222, R226 to R229, R236). -/
def lz77EncStep (s : State) : Outcome :=
  if s.ip < s.inLen then
    match s.inputBytes with
    | none => .fault .unwrittenByte
    | some input =>
      let tok := tokenAt s.params.tieBreak input s.ip
      andThen (emit tok.1 s) fun t => .next (t.advance tok.2)
  else .next { s with side := 0, sideWritten := true, status := .done }

/-- `LZ77_ENC` (R220, R229). -/
def execLz77Enc (s : State) : Outcome := command cmdLz77Enc lz77EncStep s

/-! ### LZ77_DEC -/

/-- The copy (R246, R350): `n` times, read the byte `dist` behind the decode cursor, then append it. -/
def copyBytes (dist : Nat) : Nat → State → Outcome
  | 0, s => .next s
  | n + 1, s =>
    match s.out.read (s.outLen - dist) with
    | none => .fault .unwrittenByte
    | some b => andThen (emit [b] s) (copyBytes dist n)

/-- `LIT` (R243). -/
def litToken (v : Byte) (s : State) : Outcome :=
  if s.inLen < s.ip + 2 then raise .lzTruncated s
  else andThen (emit [v] s) fun t => .next (t.advance 2)

/-- `MATCH` (R244): truncation, distance, copy. -/
def matchToken (dist len : Nat) (s : State) : Outcome :=
  if s.inLen < s.ip + 4 then raise .lzTruncated s
  else if dist = 0 ∨ s.outLen < dist then raise .lzBadDistance s
  else andThen (copyBytes dist len s) fun t => .next (t.advance 4)

/-- One micro-step of `LZ77_DEC` from the bytes of `IN` (R242, R247, R249, R250, R251). -/
def lz77DecStep (s : State) : Outcome :=
  if s.ip < s.inLen then
    withBytes s 4 fun bs =>
      match readToken bs with
      | .lit v _ => litToken v s
      | .mtch d l _ => matchToken d.toNat l.toNat s
      | .badFlag => raise .lzBadFlag s
      | .truncated => raise .lzTruncated s
  else .next s.finished

/-- `LZ77_DEC` (R240, R251). -/
def execLz77Dec (s : State) : Outcome := command cmdLz77Dec lz77DecStep s

/-- `LIT v` (R243). -/
def execLit (v : BitVec 8) (s : State) : Outcome :=
  if s.runs cmdLz77Dec then litToken v s else .refused .unitOutsideOperation

/-- `MATCH d, l` (R244). -/
def execMatchTok (d : BitVec 16) (l : BitVec 8) (s : State) : Outcome :=
  if s.runs cmdLz77Dec then matchToken d.toNat l.toNat s else .refused .unitOutsideOperation

end Sys2Proof.Machine
end

