-- ==== Sys2Proof/Machine/Lzw.lean ====
section
/-! DEFINITION. The dictionary codec: `LZW_ENC`, `LZW_DEC` and the code words of three widths
(spec/42_dictionary_codec.md R170 to R199; spec/30_encoding.md R92, R93). -/

namespace Sys2Proof.Machine

/-! ### LZW_ENC -/

/-- `max_code`, the largest code EMITTED (R177); 0 for no code. -/
def maxCode (codes : List Nat) : Nat := codes.foldr max 0

/-- The width of a code list (R178): the least of 2, 3, 4 that holds its largest code; 2 for the empty list (D8). -/
def codeWidth (codes : List Nat) : Nat :=
  if maxCode codes ≤ Config.lzwW2Max then 2 else if maxCode codes ≤ Config.lzwW3Max then 3 else 4

/-- The stream of a code list at a width (R179). -/
def serialise (w : Nat) (codes : List Nat) : Bytes := codes.flatMap (toBe w)

/-- Hit arm (R174): `w <- c`. -/
def lzwHit (k : Byte) (s : State) : State := { s with w := s.w ++ [k], ip := s.ip + 1 }

/-- Miss arm (R175), with the code of `w`. -/
def lzwMiss (k : Byte) (code : Nat) (s : State) : State :=
  { s with
    codes := s.codes ++ [code], dict := (s.w ++ [k], s.nextCode) :: s.dict
    nextCode := s.nextCode + 1, w := [k], ip := s.ip + 1 }

/-- Phase 2 (R177 to R179) on the whole code list: the width, `SIDE`, the stream, outcome Ok. A largest code of 2^32
or more is refused (R184, D11). -/
def lzwFinish (codes : List Nat) (s : State) : Outcome :=
  if Config.lzwCodeBound ≤ maxCode codes then .refused .codeTooWide
  else
    andThen (emit (serialise (codeWidth codes) codes) s) fun t =>
      .next { t with codes := codes, side := BitVec.ofNat 8 (codeWidth codes), sideWritten := true, status := .done }

/-- One micro-step of `LZW_ENC` (R172 to R176, R180; log 11). -/
def lzwEncStep (s : State) : Outcome :=
  if s.ip < s.inLen then
    match s.inp.read s.ip with
    | none => .fault .unwrittenByte
    | some k =>
      match dictLookup s.dict (s.w ++ [k]) with
      | some _ => .next (lzwHit k s)
      | none =>
        match dictLookup s.dict s.w with
        | none => .fault .unboundPhrase
        | some code =>
          if dictFits s.params s.nextCode then .next (lzwMiss k code s) else .refused .dictCapExceeded
  else if s.w = [] then lzwFinish s.codes s
  else
    match dictLookup s.dict s.w with
    | none => .fault .unboundPhrase
    | some code => lzwFinish (s.codes ++ [code]) s

/-- `LZW_ENC` (R170, R180). -/
def execLzwEnc (s : State) : Outcome := command cmdLzwEnc lzwEncStep s

/-! ### LZW_DEC -/

/-- The two checks before any code word (R186, R187). -/
def lzwDecChecks (s : State) : Outcome :=
  if s.width ∈ Config.lzwWidths then
    if s.inLen % s.width = 0 then .next s else raise .lzwBadLength s
  else
    match s.params.widthPolicy with
    | .fault => raise .lzwBadWidth s
    | .refuse => .refused .badWidth

/-- The end of a code word (R188, R192): append the entry, remember it, move on. -/
def emitEntry (entry : Phrase) (s : State) : Outcome :=
  andThen (emit entry s) fun t => .next { t with prev := some entry, ip := t.ip + t.width }

/-- Lockstep binding (R192): `TABLE[next_code] <- prev ++ <<first(entry)>>`. -/
def bindEntry (p entry : Phrase) (s : State) : Outcome :=
  match entry with
  | [] => .fault .emptyPhrase
  | b :: _ =>
    if dictFits s.params s.nextCode then
      .next { s with table := (s.nextCode, p ++ [b]) :: s.table, nextCode := s.nextCode + 1 }
    else .refused .dictCapExceeded

/-- A code word (R188 to R192, R194), by the class of R93. -/
def codeWord (code : Nat) (s : State) : Outcome :=
  match s.prev with
  | none =>
    if code < Config.lzwSeedCount then
      match tableLookup s.table code with
      | none => .fault .unboundCode
      | some entry => emitEntry entry s
    else raise .lzwBadCode s
  | some p =>
    if code < s.nextCode then
      match tableLookup s.table code with
      | none => .fault .unboundCode
      | some entry => andThen (bindEntry p entry s) (emitEntry entry)
    else if code = s.nextCode then
      match p with
      | [] => .fault .emptyPhrase
      | b :: _ => andThen (bindEntry p (p ++ [b]) s) (emitEntry (p ++ [b]))
    else raise .lzwBadCode s

/-- One micro-step of `LZW_DEC` from the bytes of `IN` (R187, R193, R194). -/
def lzwDecStep (s : State) : Outcome :=
  if s.ip < s.inLen then
    withBytes s s.width fun bs =>
      if bs.length < s.width then raise .lzwBadLength s else codeWord (beNat bs) s
  else .next s.finished

/-- `LZW_DEC` (R185, R194): the launch makes the two checks at once. -/
def execLzwDec (s : State) : Outcome :=
  if s.status = .busy then command cmdLzwDec lzwDecStep s
  else andThen (launch cmdLzwDec s) lzwDecChecks

/-- A code word where `LZW_DEC` runs at the width `w` ("selected by SIDE = w"). -/
def codeWordAt (w code : Nat) (s : State) : Outcome :=
  if s.runs cmdLzwDec ∧ s.width = w then codeWord code s else .refused .unitOutsideOperation

/-- `CODE.W2` (R93, R188 to R192). -/
def execCodeW2 (code : BitVec 16) (s : State) : Outcome := codeWordAt 2 code.toNat s

/-- `CODE.W3` (R93, R188 to R192). -/
def execCodeW3 (code : BitVec 24) (s : State) : Outcome := codeWordAt 3 code.toNat s

/-- `CODE.W4` (R93, R188 to R192). -/
def execCodeW4 (code : BitVec 32) (s : State) : Outcome := codeWordAt 4 code.toNat s

end Sys2Proof.Machine
end

