-- ==== Sys2Proof/Machine/Reserved.lean ====
section
/-! DEFINITION. The reserved values of `CMD` (spec/10_state.md R23, spec/00_scope.md R13): a start with one is refused,
no operation starts and no state changes. -/

namespace Sys2Proof.Machine

/-- `CMD` = 0 (R23). -/
def execCmdReserved0 (_s : State) : Outcome := .refused .reservedCommand

/-- `CMD` = 6 (R23). -/
def execCmdReserved6 (_s : State) : Outcome := .refused .reservedCommand

/-- `CMD` = 7 (R23). -/
def execCmdReserved7 (_s : State) : Outcome := .refused .reservedCommand

end Sys2Proof.Machine
end

