-- ==== Sys2Proof/Machine/Dispatch.lean ====
section
/-! DEFINITION. The meaning of every instruction, one direct call an arm. -/

namespace Sys2Proof.Machine

def exec (i : Instr) (s : State) : Host.Outcome State Fault Refusal :=
  match i with
  | .bmpParse => Sys2Proof.Machine.execBmpParse s
  | .lzwEnc => Sys2Proof.Machine.execLzwEnc s
  | .lzwDec => Sys2Proof.Machine.execLzwDec s
  | .lz77Enc => Sys2Proof.Machine.execLz77Enc s
  | .lz77Dec => Sys2Proof.Machine.execLz77Dec s
  | .cmdReserved0 => Sys2Proof.Machine.execCmdReserved0 s
  | .cmdReserved6 => Sys2Proof.Machine.execCmdReserved6 s
  | .cmdReserved7 => Sys2Proof.Machine.execCmdReserved7 s
  | .lit value => Sys2Proof.Machine.execLit value s
  | .matchTok distance length => Sys2Proof.Machine.execMatchTok distance length s
  | .codeW2 code => Sys2Proof.Machine.execCodeW2 code s
  | .codeW3 code => Sys2Proof.Machine.execCodeW3 code s
  | .codeW4 code => Sys2Proof.Machine.execCodeW4 code s
  | .bmpFileHdr fields => Sys2Proof.Machine.execBmpFileHdr fields s
  | .bmpInfoHdr fields => Sys2Proof.Machine.execBmpInfoHdr fields s
  | .cmptHdr fields => Sys2Proof.Machine.execCmptHdr fields s

end Sys2Proof.Machine
end

