-- ==== Sys2Proof/Machine/Fetch.lean ====
section
/-! DEFINITION. What the next step does: the instruction it fetches, or an act of the host layer that no row of the
opcode table stands for (spec/30_encoding.md R90, R97; spec/44_container_host.md R279, R285). -/

namespace Sys2Proof.Machine

/-- What a step finds to do. -/
inductive Fetched where
  /-- An instruction to execute. -/
  | instr (i : Instr)
  /-- An act that is no instruction, with its outcome. -/
  | act (o : Outcome)

/-- The next instruction of a running operation: the unit at the cursor; where there is none (the end, an illegal
or cut-off unit, an encoder) the operation's own micro-step. -/
def fetchRunning (s : State) : Fetched :=
  match s.streamAtCursor with
  | none => .instr (decodeCommand s.cmd)
  | some st =>
    match s.bytesAtCursor st.unitBytes with
    | none => .act (.fault .unwrittenByte)
    | some bs =>
      match decode st bs with
      | .unit i _ => .instr i
      | .reject _ => .instr (decodeCommand s.cmd)

/-- The next act of the host layer. With no call in progress nothing happens: the block "holds only the last
result" (R330, R340). -/
def fetchHostLayer (s : State) : Fetched :=
  match s.cmpt.phase with
  | .idle => .act (.next s)
  | .saveStart => .act (saveStart s)
  | .saveCodec =>
    if s.outLen < 2 ^ 32 then .instr (.cmptHdr (saveHeader s)) else .act (.refused .payloadTooLong)
  | .loadHeader =>
    match decodeCmpt s.cmpt.file with
    | .unit i _ => .instr i
    | .reject .badMagic => .act (failCall .cmptBadMagic s)
    | .reject _ => .act (failCall .cmptTruncated s)
  | .loadCodec => .act (loadFinish s)

/-- The running operation first, then a start the host has made, then the host layer. -/
def fetch (s : State) : Fetched :=
  if s.status = .busy then fetchRunning s
  else if s.start = true then .instr (decodeCommand s.cmd)
  else fetchHostLayer s

end Sys2Proof.Machine
end

