-- ==== Sys2Proof/Machine/Place.lean ====
section
/-! DEFINITION. Placing one instruction where the next step fetches it (log 12): the host's start for a command, the
running operation and the bytes at its cursor for a unit, a call of `CMPT_LOAD` for a container header. -/

namespace Sys2Proof.Machine

/-- A command in `CMD` and the start made. `LZW_DEC` also needs a width the host owes it (R345 (2)): where `SIDE` was
never written it becomes 2. -/
def State.placeCommand (s : State) (i : Instr) : State :=
  let t : State := { s.starting with cmd := (commandCode i).getD 0 }
  if i = .lzwDec ∧ s.sideWritten = false then { t with side := 2, sideWritten := true } else t

/-- The operation `c` running: as it is where it runs already, else at its start. -/
def State.inside (s : State) (c : BitVec 3) : State := if s.runs c = true then s else s.started c

/-- Bytes in `IN` from address `a`, the cursor at them, `IN_LEN` at their end. -/
def State.placeBytes (s : State) (a : Nat) (bs : Bytes) : State :=
  { s with inp := s.inp.writeBytes a bs, ip := a, inLen := a + bs.length }

/-- An instruction and its bytes where the next step fetches them. -/
def State.place (s : State) (i : Instr) (bs : Bytes) : State :=
  match streamOf i with
  | .command => s.placeCommand i
  | .tokens => (s.inside cmdLz77Dec).placeBytes 0 bs
  | .codes w => { (s.inside cmdLzwDec).placeBytes 0 bs with width := w, side := BitVec.ofNat 8 w, sideWritten := true }
  | .bmpFile => (s.inside cmdBmpParse).placeBytes 0 bs
  | .bmpInfo =>
    let t := (s.inside cmdBmpParse).placeBytes Config.bmpFileHdrLen bs
    { t with inLen := Config.bmpFileHdrLen + max bs.length (leNat (slice bs 0 4)) }
  | .container =>
    { s with
      status := if s.status.bits = 1 then .idle else s.status
      start := false
      cmpt := { s.cmpt with phase := .loadHeader, file := bs } }

end Sys2Proof.Machine
end

