-- ==== Sys2Proof/Machine/Step.lean ====
section
/-! DEFINITION. One step of the machine, and where an instruction is placed for the next one. -/

namespace Sys2Proof.Machine

/-- The outcome of what a step finds to do. -/
def runFetched (f : Fetched) (s : State) : Outcome :=
  match f with
  | .instr i => exec i s
  | .act o => o

/-- One step: a micro-step of the running operation, a start, or an act of the host layer (R6, R20). -/
def step (s : State) : Host.Outcome State Fault Refusal := runFetched (fetch s) s

/-- `s` with the table's word `w` of `nbits` bits placed where `step` fetches its next instruction; `s` itself where
the decoder refuses the word. -/
def State.withFetchWord (s : State) (nbits w : Nat) : State :=
  match decodeTableWord nbits w with
  | none => s
  | some i => s.place i (bytesOfTableWord nbits w)

end Sys2Proof.Machine
end

