-- ==== Sys2Proof/Machine/HostPort.lean ====
section
/-! DEFINITION. The host's moves and reads (spec/70_reset_and_hazards.md R345, spec/20_memory.md R70). The host has no
move while an operation or a call is in progress (spec/10_state.md R26, D34; log 17). -/

namespace Sys2Proof.Machine

/-- Whether the host may move: `STATUS` does not read BUSY, no start is pending, no call is in progress. -/
def State.hostMayMove (s : State) : Bool :=
  decide (s.status.bits ≠ 1 ∧ s.start = false ∧ s.cmpt.phase = .idle)

/-- A move of the host to `t`. -/
def hostMove (s t : State) : Outcome := if s.hostMayMove then .next t else .refused .hostMoveWhileBusy

/-- Load the input bytes into `IN` and write `IN_LEN` (R345 (1)). -/
def hostLoadInput (bs : Bytes) (s : State) : Outcome :=
  hostMove s { s with inp := s.inp.writeBytes 0 bs, inLen := bs.length }

/-- Write `SIDE` (R345 (2)). -/
def hostWriteSide (v : BitVec 8) (s : State) : Outcome := hostMove s { s with side := v, sideWritten := true }

/-- Write `CMD` (R345 (3)). -/
def hostWriteCmd (c : BitVec 3) (s : State) : Outcome := hostMove s { s with cmd := c }

/-- Start (R26, R345 (3)): `STATUS` is BUSY at once, and the next step takes the start up. A start whose launch is
refused (R23, R342) changes nothing (log 2). -/
def hostStart (s : State) : Outcome :=
  if s.hostMayMove then andThen (Sys2Proof.Machine.exec (decodeCommand s.cmd) s) fun _ => .next s.starting
  else .refused .hostMoveWhileBusy

/-- Call `CMPT_SAVE(width, height, bits_per_pixel, pixel_bytes, algorithm_choice)` (R271). -/
def hostCallSave (width height bpp : Nat) (pixels : Bytes) (alg : Nat) (s : State) : Outcome :=
  hostMove s { s with cmpt := { s.cmpt with
    phase := .saveStart, width := width, height := height, bpp := bpp, pixels := pixels, alg := alg } }

/-- Call `CMPT_LOAD(F)` (R280). -/
def hostCallLoad (file : Bytes) (s : State) : Outcome :=
  hostMove s { s with cmpt := { s.cmpt with phase := .loadHeader, file := file } }

/-- Read `STATUS`, 1 from the start to the end of an operation (R26). -/
def hostReadStatus (s : State) : BitVec 2 := s.status.bits

/-- Read the output, only at `DONE` (R70, R343). -/
def hostReadOut (s : State) : Except Fault Bytes :=
  if s.status = .done then
    match s.outputBytes with
    | none => .error .unwrittenByte
    | some bs => .ok bs
  else .error .readNotPermitted

/-- Read `OUT_LEN`, only at `DONE` (R70). -/
def hostReadOutLen (s : State) : Except Fault Nat :=
  if s.status = .done then .ok s.outLen else .error .readNotPermitted

/-- Read `SIDE`, only at `DONE` (R70). -/
def hostReadSide (s : State) : Except Fault (BitVec 8) :=
  if s.status = .done then .ok s.side else .error .readNotPermitted

/-- Read the header records, only at `DONE` (R70), and only once a `BMP_PARSE` has delivered them (R42). -/
def hostReadRecords (s : State) : Except Fault (BmpFileHeader × BmpInfoHeader) :=
  if s.status = .done then
    if s.recordsWritten then .ok (s.bmpFile, s.bmpInfo) else .error .recordUnwritten
  else .error .readNotPermitted

/-- Read `ERR_KIND` and `ERR_CAUSE`, only at `ERROR` (R70). -/
def hostReadError (s : State) : Except Fault (BitVec 3 × BitVec 5) :=
  if s.status = .error then .ok (s.errKind.bits, s.errCause.bits) else .error .readNotPermitted

end Sys2Proof.Machine
end

