-- ==== Sys2Proof/Machine/Transaction.lean ====
section
/-! DEFINITION. Each operation as ONE total function of its input, the second reading spec/00_scope.md R6 allows
("the two must agree"): the pseudocode of R152, R180, R194, R229, R251, R279 and R285. Output and dictionary are
unbounded here, as R8 has them by default. -/

namespace Sys2Proof.Machine

/-- The three outcomes of an operation (R13). -/
inductive OpResult (α : Type) where
  | ok (a : α)
  | error (c : ErrCause)
  | refused (r : Refusal)
deriving DecidableEq, Repr

/-- `BMP_PARSE` (R152). -/
def bmpParseBytes (input : Bytes) : OpResult (BmpFileHeader × BmpInfoHeader) :=
  if input.length < Config.bmpFileHdrLen then .error .bmpShortFileHeader
  else if input.take 2 ≠ Config.bmpSignature then .error .bmpBadSignature
  else
    match infoCause input.length (leNat (slice input 14 4)) with
    | some c => .error c
    | none =>
      .ok (fileHeaderOf (bmpFileFields (slice input 0 14)), infoHeaderOf (bmpInfoFields (slice input 14 40)))

/-- `DICT[p]` where R29 (i) says it is defined. -/
def codeOf (dict : List (Phrase × Nat)) (p : Phrase) : Nat := (dictLookup dict p).getD 0

/-- `CODES` from a state of the encoder on (R172 to R176). -/
def lzwCodesFrom (dict : List (Phrase × Nat)) (nextCode : Nat) (w : Phrase) : Bytes → List Nat
  | [] => if w = [] then [] else [codeOf dict w]
  | k :: rest =>
    match dictLookup dict (w ++ [k]) with
    | some _ => lzwCodesFrom dict nextCode (w ++ [k]) rest
    | none => codeOf dict w :: lzwCodesFrom ((w ++ [k], nextCode) :: dict) (nextCode + 1) [k] rest

/-- `CODES` of an input (R171 to R176). -/
def lzwCodes (input : Bytes) : List Nat := lzwCodesFrom seedDict Config.lzwFirstCode [] input

/-- `LZW_ENC` (R180): the stream and its width. -/
def lzwEncodeBytes (input : Bytes) : OpResult (Bytes × Nat) :=
  let codes := lzwCodes input
  if Config.lzwCodeBound ≤ maxCode codes then .refused .codeTooWide
  else .ok (serialise (codeWidth codes) codes, codeWidth codes)

/-- The first `n` code words of width `w` (R187). -/
def lzwWords (w : Nat) : Nat → Bytes → List Nat
  | 0, _ => []
  | n + 1, bs => beNat (bs.take w) :: lzwWords w n (bs.drop w)

/-- The phrase of a code word, by its class (R93, R188 to R191); `none` for an illegal one. -/
def lzwEntry (table : List (Nat × Phrase)) (nextCode : Nat) (prev : Option Phrase) (code : Nat) : Option Phrase :=
  match prev with
  | none => if code < Config.lzwSeedCount then tableLookup table code else none
  | some p =>
    if code < nextCode then tableLookup table code
    else if code = nextCode then some (p ++ p.take 1)
    else none

/-- The decoded bytes from a state of the decoder on (R188 to R193). -/
def lzwDecodeFrom (table : List (Nat × Phrase)) (nextCode : Nat) (prev : Option Phrase) : List Nat → OpResult Bytes
  | [] => .ok []
  | code :: rest =>
    match lzwEntry table nextCode prev code with
    | none => .error .lzwBadCode
    | some entry =>
      let tail :=
        match prev with
        | none => lzwDecodeFrom table nextCode (some entry) rest
        | some p => lzwDecodeFrom ((nextCode, p ++ entry.take 1) :: table) (nextCode + 1) (some entry) rest
      match tail with
      | .ok out => .ok (entry ++ out)
      | .error c => .error c
      | .refused r => .refused r

/-- `LZW_DEC` (R194). -/
def lzwDecodeBytes (policy : Config.WidthPolicy) (side : Nat) (input : Bytes) : OpResult Bytes :=
  if side ∈ Config.lzwWidths then
    if input.length % side = 0 then
      lzwDecodeFrom seedTable Config.lzwFirstCode none (lzwWords side (input.length / side) input)
    else .error .lzwBadLength
  else
    match policy with
    | .fault => .error .lzwBadWidth
    | .refuse => .refused .badWidth

/-- The tokens from `pos` on, at most `n` of them (R222). -/
def lz77EncodeFrom (tb : Config.TieBreak) (input : Bytes) : Nat → Nat → Bytes
  | 0, _ => []
  | n + 1, pos =>
    if pos < input.length then
      (tokenAt tb input pos).1 ++ lz77EncodeFrom tb input n (pos + (tokenAt tb input pos).2)
    else []

/-- `LZ77_ENC` (R229): every token covers at least one byte. -/
def lz77EncodeBytes (tb : Config.TieBreak) (input : Bytes) : Bytes := lz77EncodeFrom tb input input.length 0

/-- The copy on a byte string (R246): one byte at a time. -/
def copyList (dist : Nat) : Nat → Bytes → Bytes
  | 0, out => out
  | n + 1, out => copyList dist n (out ++ slice out (out.length - dist) 1)

/-- The decode of a token stream after the bytes `out`, at most `n` tokens (R242 to R250). -/
def lz77DecodeFrom : Nat → Bytes → Bytes → OpResult Bytes
  | 0, _, out => .ok out
  | n + 1, input, out =>
    if input = [] then .ok out
    else
      match readToken input with
      | .lit v rest => lz77DecodeFrom n rest (out ++ [v])
      | .mtch d l rest =>
        if d.toNat = 0 ∨ out.length < d.toNat then .error .lzBadDistance
        else lz77DecodeFrom n rest (copyList d.toNat l.toNat out)
      | .badFlag => .error .lzBadFlag
      | .truncated => .error .lzTruncated

/-- `LZ77_DEC` (R251): every token takes at least one byte of the input. -/
def lz77DecodeBytes (input : Bytes) : OpResult Bytes := lz77DecodeFrom input.length input []

/-- `CMPT_SAVE` (R279), `elapsed` apart: the file. -/
def cmptSaveBytes (p : Config.Params) (width height bpp : Nat) (pixels : Bytes) (alg : Nat) : OpResult Bytes :=
  if (alg = Config.algDict ∨ alg = Config.algWindow) ∧ width < 2 ^ 32 ∧ height < 2 ^ 32 ∧ bpp ≤ 255 then
    if p.maxInputLen < pixels.length then .refused .inputTooLong
    else
      let coded : OpResult (Bytes × Nat) :=
        if alg = Config.algDict then lzwEncodeBytes pixels else .ok (lz77EncodeBytes p.tieBreak pixels, 0)
      match coded with
      | .ok (payload, side) =>
        if payload.length < 2 ^ 32 then
          .ok (Config.cmptMagic ++ [BitVec.ofNat 8 Config.cmptVersion, BitVec.ofNat 8 alg, BitVec.ofNat 8 side,
                BitVec.ofNat 8 bpp]
            ++ toLe 4 width ++ toLe 4 height ++ toLe 4 payload.length ++ payload)
        else .refused .payloadTooLong
      | .error c => .error c
      | .refused r => .refused r
  else .refused .saveArgument

/-- `CMPT_LOAD` (R285): width, height, bits per pixel and the pixels. -/
def cmptLoadBytes (p : Config.Params) (file : Bytes) : OpResult (Nat × Nat × Nat × Bytes) :=
  if file.take 4 ≠ Config.cmptMagic then .error .cmptBadMagic
  else if file.length < Config.cmptHdrLen then .error .cmptTruncated
  else
    let h := cmptFields file
    if h.version.toNat ≠ Config.cmptVersion then .error .cmptBadVersion
    else if h.algorithmId.toNat ≠ Config.algDict ∧ h.algorithmId.toNat ≠ Config.algWindow then
      .error .cmptBadAlgorithm
    else if file.length < Config.cmptHdrLen + h.payloadLength.toNat then .error .cmptTruncated
    else if p.maxInputLen < h.payloadLength.toNat then .refused .inputTooLong
    else
      let payload := slice file Config.cmptHdrLen h.payloadLength.toNat
      let decoded : OpResult Bytes :=
        if h.algorithmId.toNat = Config.algDict then lzwDecodeBytes p.widthPolicy h.sideInfo.toNat payload
        else lz77DecodeBytes payload
      match decoded with
      | .ok pixels =>
        if pixels.length = expectedLength h.width.toNat h.height.toNat h.bitsPerPixel.toNat then
          .ok (h.width.toNat, h.height.toNat, h.bitsPerPixel.toNat, pixels)
        else .error .cmptLengthMismatch
      | .error c => .error c
      | .refused r => .refused r

end Sys2Proof.Machine
end

