-- ==== Sys2Proof/Safety.lean ====
section
/-! DEFINITION. What counts as a sound state and a safe run: the invariants spec/10_state.md states (R25, R27, R28,
R29, R32) and those its rules imply, in the terms the statements use. -/

namespace Sys2Proof.Machine

/-- Both byte spaces are in canonical form. -/
abbrev memoriesCanonical (s : State) : Prop := s.inp.wf = true ∧ s.out.wf = true

/-- `ERR_KIND` and `ERR_CAUSE` are 0 unless `STATUS = ERROR`; at `ERROR` there is a cause, the kind is its kind, and
`OUT_LEN` is 0 (R25, R27, R314). -/
abbrev errorFlagsSound (s : State) : Prop :=
  s.errKind = s.errCause.kind ∧ (s.status ≠ .error → s.errCause = .none) ∧
    (s.status = .error → s.errCause ≠ .none ∧ s.outLen = 0)

/-- Every byte of `OUT` below `OUT_LEN` has been written (R25). -/
abbrev outputWritten (s : State) : Prop := s.outputBytes.isSome = true

/-- While an operation runs: it is one of the five, the cursor is inside the input (R28), all of which has been
written (R342). -/
abbrev cursorSound (s : State) : Prop :=
  s.status = .busy → s.ip ≤ s.inLen ∧ s.inputBytes.isSome = true ∧
    (s.cmd = cmdBmpParse ∨ s.cmd = cmdLzwEnc ∨ s.cmd = cmdLzwDec ∨ s.cmd = cmdLz77Enc ∨ s.cmd = cmdLz77Dec)

/-- The invariants of R29 on the encoder's dictionary, with the seeds of R171 and R173. -/
structure DictSound (s : State) : Prop where
  /-- (i) `w` is empty or a key. -/
  prefixBound : s.w = [] ∨ (dictLookup s.dict s.w).isSome = true
  /-- `w` is empty only before the first byte (R173). -/
  prefixEmpty : s.w = [] ↔ s.ip = 0
  /-- (ii) the keys are pairwise distinct phrases, … -/
  keysDistinct : (s.dict.map Prod.fst).Nodup
  keysNonempty : ∀ p ∈ s.dict.map Prod.fst, p ≠ []
  /-- … and the codes are exactly `0 .. next_code - 1`, each bound once. -/
  codesExact : (s.dict.map Prod.snd).Perm (List.range s.nextCode)
  /-- Every single byte is bound to its own value (R171). -/
  seedsBound : ∀ b : Byte, dictLookup s.dict [b] = some b.toNat
  /-- (iii) `DICT` is prefix-closed. -/
  prefixClosed : ∀ p q : Phrase, (dictLookup s.dict p).isSome = true → q ≠ [] → q <+: p →
    (dictLookup s.dict q).isSome = true
  /-- (iv) `next_code = 256 + (number of emissions so far)`. -/
  nextCodeCounts : s.nextCode = Config.lzwFirstCode + s.codes.length

/-- The decoder's table while code words are fetched (R32, R93, R186, R187, R352). -/
structure TableSound (s : State) : Prop where
  widthLegal : s.width ∈ Config.lzwWidths
  wholeWords : s.inLen % s.width = 0 ∧ s.ip % s.width = 0
  /-- `TABLE` is defined on exactly `0 .. next_code - 1` (R189). -/
  boundBelow : ∀ c, (tableLookup s.table c).isSome = true ↔ c < s.nextCode
  /-- Every seed code is bound to its own byte (R188). -/
  seedsBound : ∀ b : Byte, tableLookup s.table b.toNat = some [b]
  phrasesNonempty : ∀ c p, tableLookup s.table c = some p → p ≠ []
  prevNonempty : s.prev ≠ some []
  /-- `next_code` is 256 before the first code word and `256 + i - 1` before word `i >= 1` (R93). -/
  nextCodeLags : s.nextCode = Config.lzwFirstCode + (s.ip / s.width - 1)
  prevNone : s.prev = none ↔ s.ip = 0

/-- The host layer has started the codec of its call, or the codec runs, or it has ended (R273, R279, R283, R285). -/
abbrev callSound (s : State) : Prop :=
  (s.cmpt.phase = .saveCodec →
    ((s.start = true ∨ s.status = .busy) ∧ (s.cmd = cmdLzwEnc ∨ s.cmd = cmdLz77Enc)) ∨
      (s.start = false ∧ s.status = .done)) ∧
  (s.cmpt.phase = .loadCodec → s.start = true ∨ s.status ≠ .idle)

/-- A start is pending exactly while `STATUS` is BUSY with no operation in progress, so none is pending while one runs
(R26, D34; log 2). -/
abbrev startSound (s : State) : Prop := s.start = true ↔ s.status = .starting

/-- The sound states. -/
structure Sound (s : State) : Prop where
  memories : memoriesCanonical s
  flags : errorFlagsSound s
  output : outputWritten s
  cursor : cursorSound s
  starts : startSound s
  calls : callSound s
  bmpCursor : s.status = .busy → s.cmd = cmdBmpParse → s.ip = 0 ∨ s.ip = Config.bmpFileHdrLen
  dict : s.status = .busy → s.cmd = cmdLzwEnc → DictSound s
  table : s.status = .busy → s.cmd = cmdLzwDec → TableSound s

/-- A step is safe: it does not fault. -/
def Safe (s : State) : Prop := ∀ r, step s ≠ .fault r

/-! ### Runs -/

/-- `k` steps, stopping at the first fault or refusal. -/
def runSteps : Nat → State → Outcome
  | 0, s => .next s
  | k + 1, s => andThen (step s) (runSteps k)

/-- No capacity bounds the output or the dictionary (R8's defaults for `OUT_CAP` and `DICT_CAP`). -/
abbrev unbounded (s : State) : Prop := s.params.outCap = none ∧ s.params.dictCap = none

/-- The host has written `input`, `CMD = c` and, for `LZW_DEC`, `SIDE`, and has started the operation: the launch is
well-formed (R342). -/
structure Ready (c : BitVec 3) (input : Bytes) (s : State) : Prop where
  notBusy : s.status ≠ .busy
  hasStart : s.start = true
  command : s.cmd = c
  length : s.inLen ≤ s.params.maxInputLen
  disjoint : s.overlap = false
  loaded : s.inputBytes = some input
  width : c = cmdLzwDec → s.sideWritten = true

/-- What an operation never changes: the parameters, `IN`, `IN_LEN`, the buffers' placement, the host layer and the
free values drawn. -/
abbrev inputSideSame (s t : State) : Prop :=
  t.params = s.params ∧ t.inp = s.inp ∧ t.inLen = s.inLen ∧ t.overlap = s.overlap ∧ t.cmpt = s.cmpt ∧ t.draws = s.draws

/-- The result records are as they were. -/
abbrev recordsSame (s t : State) : Prop :=
  t.bmpFile = s.bmpFile ∧ t.bmpInfo = s.bmpInfo ∧ t.recordsWritten = s.recordsWritten

/-- Outcome Ok of an operation started at `s` (R13, R26, R27, R343): its output is `out`. -/
abbrev EndsOk (s t : State) (out : Bytes) : Prop :=
  t.status = .done ∧ t.errKind = .none ∧ t.errCause = .none ∧ t.outLen = out.length ∧ t.outputBytes = some out ∧
    inputSideSame s t

/-- Outcome Error of an operation started at `s` (R13, R314). -/
abbrev EndsInError (s t : State) (c : ErrCause) : Prop :=
  t.status = .error ∧ t.errKind = c.kind ∧ t.errCause = c ∧ t.outLen = 0 ∧ t.side = s.side ∧ recordsSame s t ∧
    inputSideSame s t

/-! ### Terms of the statements about one instruction -/

/-- `bs` stands in `OUT` from `a` on, and every byte of `OUT` outside those addresses reads as before. -/
abbrev Stores (s t : State) (a : Nat) (bs : Bytes) : Prop :=
  ∀ x, t.out.read x = if a ≤ x ∧ x < a + bs.length then bs[x - a]? else s.out.read x

/-- `s` after an error of cause `c` and kind `k` (R314). -/
abbrev inError (s : State) (k : ErrKind) (c : ErrCause) : State :=
  { s with status := .error, errKind := k, errCause := c, outLen := 0 }

/-- `s` after a call of the host layer that failed (R286). -/
abbrev inFailedCall (s : State) (k : ErrKind) (c : ErrCause) : State :=
  { s with cmpt := { s.cmpt with phase := .idle, result := .failed k c } }

/-- The premises of R342 for a start of the operation `c`, `STATUS` apart. -/
structure LaunchPremises (c : BitVec 3) (s : State) : Prop where
  command : 1 ≤ c.toNat ∧ c.toNat ≤ 5
  length : s.inLen ≤ s.params.maxInputLen
  loaded : ∀ a, a < s.inLen → (s.inp.read a).isSome = true
  disjoint : s.overlap = false
  width : c = cmdLzwDec → s.sideWritten = true

/-- `t` is `s` right after the start of the operation `c` (R42, R341), the four fields that depend on the operation
apart. -/
abbrev atStart (c : BitVec 3) (s t : State) : Prop :=
  t = { s with
    cmd := c, start := false, status := .busy, errKind := .none, errCause := .none, outLen := 0
    ip := 0, nextCode := 256, w := [], codes := [], prev := none
    dict := t.dict, table := t.table, width := t.width, fh := t.fh }

/-- `DICT` is the 256 seed bindings (R171). -/
abbrev seededDict (d : List (Phrase × Nat)) : Prop :=
  ∀ p, dictLookup d p = match p with | [b] => some b.toNat | _ => none

/-- `TABLE` is the 256 seed bindings (R188). -/
abbrev seededTable (tb : List (Nat × Phrase)) : Prop :=
  ∀ c, tableLookup tb c = if c < 256 then some [BitVec.ofNat 8 c] else none

/-- The width and the code of a code word (R93). -/
def codeUnit (i : Instr) : Option (Nat × Nat) :=
  match i with
  | .codeW2 c => some (2, c.toNat)
  | .codeW3 c => some (3, c.toNat)
  | .codeW4 c => some (4, c.toNat)
  | .bmpParse => none
  | .lzwEnc => none
  | .lzwDec => none
  | .lz77Enc => none
  | .lz77Dec => none
  | .cmdReserved0 => none
  | .cmdReserved6 => none
  | .cmdReserved7 => none
  | .lit _ => none
  | .matchTok _ _ => none
  | .bmpFileHdr _ => none
  | .bmpInfoHdr _ => none
  | .cmptHdr _ => none

/-- `d` is a candidate at `pos` (R223). -/
abbrev Candidate (pos d : Nat) : Prop := 1 ≤ d ∧ d ≤ pos ∧ d ≤ 4096

/-- At distance `d` a run of `l` bytes matches the bytes at `pos` (R224). -/
abbrev RunAt (input : Bytes) (pos d l : Nat) : Prop :=
  l ≤ 255 ∧ pos + l ≤ input.length ∧ ∀ j, j < l → input[pos - d + j]? = input[pos + j]?

/-- `(l, d)` is the longest run at `pos` and the nearest of that length (R225). -/
structure BestRun (input : Bytes) (pos d l : Nat) : Prop where
  candidate : Candidate pos d
  run : RunAt input pos d l
  longest : ∀ d' l', Candidate pos d' → RunAt input pos d' l' → l' ≤ l
  nearest : ∀ d', d' < d → Candidate pos d' → ¬ RunAt input pos d' l

end Sys2Proof.Machine
end

