-- ==== Sys2Proof/Certificates/Slice0/Obligations.lean ====
section
/-! DEFINITION. The statements for the provers. OBLIGATIONS.json lists them in this order. -/

open Sys2Proof Sys2Proof.Machine

/-! ### Encodings -/

/-- Decode undoes encode: for every instruction, every value of its fields and any bytes after it (R91, R93, R95,
R96, R98 to R100). -/
def Obligations.DecodeInvertsEncode : Prop :=
  ∀ (i : Instr) (rest : Bytes), decode (streamOf i) (encode i ++ rest) = .unit i rest

/-- Encode undoes decode: a unit read from a stream is a unit of that stream, and its encoding is the bytes read. -/
def Obligations.EncodeInvertsDecode : Prop :=
  ∀ (st : Stream) (bs : Bytes) (i : Instr) (rest : Bytes),
    decode st bs = .unit i rest → streamOf i = st ∧ bs = encode i ++ rest

/-- Words written out from the spec's encodings decode to what they stand for, one for each family. R93 and R106 let a
2-byte or 4-byte table word be a token or a code word, and R97 says that the choice is made outside the word: that
`decodeTableWord` tries the token first, so that 0x0041 is a `LIT` and 0x01000306 a `MATCH`, is the model's choice
(log 12). -/
def Obligations.WordsDecode : Prop :=
  decodeTableWord 8 0b010 = some .lzwEnc ∧ decodeTableWord 8 0b101 = some .lz77Dec ∧
  decodeTableWord 16 0x0041 = some (.lit 0x41) ∧
  decodeTableWord 32 0x01000306 = some (.matchTok 3 6) ∧
  decodeTableWord 24 0x000041 = some (.codeW3 65) ∧
  decode (.codes 2) [0x01, 0x02] = .unit (.codeW2 258) [] ∧
  decode (.codes 4) [0x00, 0x41, 0x00, 0x42] = .unit (.codeW4 0x00410042) [] ∧
  decodeTableWord 112 0x424D4600000000000000_36000000 = some (.bmpFileHdr ⟨70, 0, 0, 54⟩) ∧
  decodeTableWord 160 0x434D5054_01010218_02000000_02000000_0E000000 = some (.cmptHdr ⟨1, 1, 2, 24, 2, 2, 14⟩)

/-- Every field of the three records, byte by byte: least significant byte first (R98, R99, R100, R103). -/
def Obligations.RecordLayouts : Prop :=
  (∀ (f0 f1 f2 f3 a0 a1 b0 b1 o0 o1 o2 o3 : Byte) (rest : Bytes),
    decode .bmpFile ([0x42, 0x4D, f0, f1, f2, f3, a0, a1, b0, b1, o0, o1, o2, o3] ++ rest) =
      .unit (.bmpFileHdr
        { fileSize := f3 ++ f2 ++ f1 ++ f0, reserved1 := a1 ++ a0, reserved2 := b1 ++ b0
          dataOffset := o3 ++ o2 ++ o1 ++ o0 }) rest) ∧
  (∀ (h0 h1 h2 h3 w0 w1 w2 w3 g0 g1 g2 g3 p0 p1 b0 b1 c0 c1 c2 c3 i0 i1 i2 i3 x0 x1 x2 x3 y0 y1 y2 y3
      u0 u1 u2 u3 m0 m1 m2 m3 : Byte) (rest : Bytes),
    decode .bmpInfo ([h0, h1, h2, h3, w0, w1, w2, w3, g0, g1, g2, g3, p0, p1, b0, b1, c0, c1, c2, c3, i0, i1, i2, i3,
        x0, x1, x2, x3, y0, y1, y2, y3, u0, u1, u2, u3, m0, m1, m2, m3] ++ rest) =
      .unit (.bmpInfoHdr
        { headerSize := h3 ++ h2 ++ h1 ++ h0, width := w3 ++ w2 ++ w1 ++ w0, height := g3 ++ g2 ++ g1 ++ g0
          planes := p1 ++ p0, bitsPerPixel := b1 ++ b0, compression := c3 ++ c2 ++ c1 ++ c0
          imageSize := i3 ++ i2 ++ i1 ++ i0, xPixelsPerMeter := x3 ++ x2 ++ x1 ++ x0
          yPixelsPerMeter := y3 ++ y2 ++ y1 ++ y0, colorsUsed := u3 ++ u2 ++ u1 ++ u0
          colorsImportant := m3 ++ m2 ++ m1 ++ m0 }) rest) ∧
  (∀ (v a sd b w0 w1 w2 w3 h0 h1 h2 h3 n0 n1 n2 n3 : Byte) (rest : Bytes),
    decode .container
        ([0x43, 0x4D, 0x50, 0x54, v, a, sd, b, w0, w1, w2, w3, h0, h1, h2, h3, n0, n1, n2, n3] ++ rest) =
      .unit (.cmptHdr
        { version := v, algorithmId := a, sideInfo := sd, bitsPerPixel := b, width := w3 ++ w2 ++ w1 ++ w0
          height := h3 ++ h2 ++ h1 ++ h0, payloadLength := n3 ++ n2 ++ n1 ++ n0 }) rest)

/-- Every field of the stream units, byte by byte: most significant byte first (R93, R95, R96, R102). -/
def Obligations.StreamUnitLayouts : Prop :=
  ∀ (b0 b1 b2 b3 : Byte) (rest : Bytes),
    decode (.codes 2) ([b0, b1] ++ rest) = .unit (.codeW2 (b0 ++ b1)) rest ∧
    decode (.codes 3) ([b0, b1, b2] ++ rest) = .unit (.codeW3 (b0 ++ b1 ++ b2)) rest ∧
    decode (.codes 4) ([b0, b1, b2, b3] ++ rest) = .unit (.codeW4 (b0 ++ b1 ++ b2 ++ b3)) rest ∧
    decode .tokens ([0, b1] ++ rest) = .unit (.lit b1) rest ∧
    decode .tokens ([1, b1, b2, b3] ++ rest) = .unit (.matchTok (b1 ++ b2) b3) rest

/-- Exactly which byte strings hold no token: a flag of 2 or more, whatever follows, and a token cut off by the end
(R104, R247, R249). -/
def Obligations.TokenRejects : Prop :=
  ∀ (flag : Byte) (rest : Bytes),
    (decode .tokens (flag :: rest) = .reject .badFlag ↔ 2 ≤ flag.toNat) ∧
    (decode .tokens (flag :: rest) = .reject .truncated ↔
      (flag.toNat = 0 ∧ rest.length < 1) ∨ (flag.toNat = 1 ∧ rest.length < 3))

/-! ### Step -/

/-- A step runs the instruction it finds: the unit at the cursor of the running operation (or, where no unit stands
there, that operation's own micro-step), else the started command, else the container header of the call in
progress. Which stream stands at the cursor is set by `CMD` and the width (R68, R97). That a pending start is taken up by
the next step as `exec` of `CMD` is the model's choice (log 2), and so is that `CMPT_HDR` runs as a step of the host
layer, in its phases `loadHeader` and `saveCodec` (log 16). -/
def Obligations.StepRunsFetchedInstruction : Prop :=
  ∀ s : State,
    (∀ st bs i rest, s.status = .busy → s.streamAtCursor = some st → s.bytesAtCursor st.unitBytes = some bs →
      decode st bs = .unit i rest → step s = exec i s) ∧
    (∀ st bs r, s.status = .busy → s.streamAtCursor = some st → s.bytesAtCursor st.unitBytes = some bs →
      decode st bs = .reject r → step s = exec (decodeCommand s.cmd) s) ∧
    (s.status = .busy → s.streamAtCursor = none → step s = exec (decodeCommand s.cmd) s) ∧
    (s.status ≠ .busy → s.start = true → step s = exec (decodeCommand s.cmd) s) ∧
    (∀ i rest, s.status ≠ .busy → s.start = false → s.cmpt.phase = .loadHeader →
      decode .container s.cmpt.file = .unit i rest → step s = exec i s) ∧
    (s.status ≠ .busy → s.start = false → s.cmpt.phase = .saveCodec → s.outLen < 2 ^ 32 →
      step s = exec (.cmptHdr (saveHeader s)) s) ∧
    (s.cmd = cmdBmpParse → s.streamAtCursor = if s.ip = 0 then some .bmpFile else some .bmpInfo) ∧
    (s.cmd = cmdLzwDec → s.streamAtCursor = some (.codes s.width)) ∧
    (s.cmd = cmdLz77Dec → s.streamAtCursor = some .tokens) ∧
    (s.cmd = cmdLzwEnc ∨ s.cmd = cmdLz77Enc → s.streamAtCursor = none)

/-- The machine right after reset (R340, R42), and that nothing runs until the host starts something (R330, R340):
an idle block keeps its state. That it then stutters is the model's choice (log 2). -/
def Obligations.ResetAndIdle : Prop :=
  State.reset.status = .idle ∧ State.reset.errKind = .none ∧ State.reset.errCause = .none ∧ State.reset.outLen = 0 ∧
  (∀ a, State.reset.inp.read a = none ∧ State.reset.out.read a = none) ∧
  State.reset.recordsWritten = false ∧ State.reset.hostMayMove = true ∧
  (∀ s : State, s.status ≠ .busy → s.start = false → s.cmpt.phase = .idle → step s = .next s)

/-- The invariant holds at reset. -/
def Obligations.ResetIsSound : Prop := Sound State.reset

/-! ### Start of an operation -/

/-- The start of the four operations without a width (R341, R342, R26): the launch completes and changes what R42's
column "at operation start" says, and nothing else. The working state of other operations is cleared, which is the
model's choice (log 15). -/
def Obligations.LaunchCompletes : Prop :=
  ∀ (i : Instr) (c : BitVec 3) (s : State),
    (i, c) ∈ [(Instr.bmpParse, cmdBmpParse), (.lzwEnc, cmdLzwEnc), (.lz77Enc, cmdLz77Enc), (.lz77Dec, cmdLz77Dec)] →
    s.status ≠ .busy → LaunchPremises c s → (c = cmdLzwEnc → dictFits s.params 255 = true) →
    ∃ t, exec i s = .next t ∧ atStart c s t ∧ t.table = [] ∧ t.width = 0 ∧ t.fh = BmpFileHeader.blank ∧
      (if c = cmdLzwEnc then seededDict t.dict else t.dict = [])

/-- The start of `LZW_DEC` (R185 to R188): its seeds, then the width test, then the length test; under
`LZW_DEC_WIDTH_POLICY = refuse` a bad width is refused. `SIDE` is not written. That the start clears the working state of
the other operations (`w`, `CODES`, `DICT` and `fh`) is the model's choice (log 15). -/
def Obligations.LaunchLzwDec : Prop :=
  ∀ s : State, s.status ≠ .busy → LaunchPremises cmdLzwDec s → dictFits s.params 255 = true →
    ∃ t, atStart cmdLzwDec s t ∧ t.dict = [] ∧ t.fh = BmpFileHeader.blank ∧ t.width = s.side.toNat ∧
      seededTable t.table ∧
      ((s.side = 2 ∨ s.side = 3 ∨ s.side = 4) → s.inLen % s.side.toNat = 0 → exec .lzwDec s = .next t) ∧
      ((s.side = 2 ∨ s.side = 3 ∨ s.side = 4) → s.inLen % s.side.toNat ≠ 0 →
        exec .lzwDec s = .next (inError t .corruption .lzwBadLength)) ∧
      (¬ (s.side = 2 ∨ s.side = 3 ∨ s.side = 4) → s.params.widthPolicy = .fault →
        exec .lzwDec s = .next (inError t .corruption .lzwBadWidth)) ∧
      (¬ (s.side = 2 ∨ s.side = 3 ∨ s.side = 4) → s.params.widthPolicy = .refuse →
        exec .lzwDec s = .refused .badWidth)

/-- A launch is refused exactly when it is not well-formed (R342), with the default policy and an unbounded
dictionary; while `BUSY` the host has no start (R26). -/
def Obligations.RefusedExactlyWhenNotWellFormed : Prop :=
  ∀ (c : BitVec 3) (s : State), s.params.dictCap = none → s.params.widthPolicy = .fault →
    (s.status = .busy → hostStart s = .refused .hostMoveWhileBusy) ∧
    (s.status ≠ .busy → LaunchPremises c s →
      ∃ t, exec (decodeCommand c) s = .next t ∧
        (t.status = .busy ∨
          c = cmdLzwDec ∧ t.status = .error ∧ (s.side.toNat ∉ Config.lzwWidths ∨ s.inLen % s.side.toNat ≠ 0))) ∧
    (s.status ≠ .busy → ¬ LaunchPremises c s → ∃ r, exec (decodeCommand c) s = .refused r)

/-- Every operation begins from the same working state whatever ran before (R341): nothing of `s` but `CMD` decides
it. -/
def Obligations.OperationStartState : Prop :=
  ∀ (c : BitVec 3) (s t : State), s.status ≠ .busy → exec (decodeCommand c) s = .next t → t.status = .busy →
    t.ip = 0 ∧ t.outLen = 0 ∧
    (c = cmdLzwEnc → seededDict t.dict ∧ t.nextCode = 256 ∧ t.w = [] ∧ t.codes = []) ∧
    (c = cmdLzwDec → seededTable t.table ∧ t.nextCode = 256 ∧ t.prev = none)

/-- `CMD` selects the operation, and a start with 0, 6 or 7 is refused (R23): there is no next state. -/
def Obligations.ReservedCommandsAreRefused : Prop :=
  decodeCommand 1 = .bmpParse ∧ decodeCommand 2 = .lzwEnc ∧ decodeCommand 3 = .lzwDec ∧
  decodeCommand 4 = .lz77Enc ∧ decodeCommand 5 = .lz77Dec ∧
  (∀ s : State, exec .cmdReserved0 s = .refused .reservedCommand ∧ exec .cmdReserved6 s = .refused .reservedCommand ∧
    exec .cmdReserved7 s = .refused .reservedCommand) ∧
  (∀ s : State, s.status ≠ .busy → s.start = true → (s.cmd = 0 ∨ s.cmd = 6 ∨ s.cmd = 7) →
    step s = .refused .reservedCommand)

/-! ### Errors -/

/-- Error entry (R314): what any step of the block that raises an error leaves, and that the host then reads the
error and no output. -/
def Obligations.ErrorEntry : Prop :=
  ∀ s t : State, s.status = .busy ∨ s.start = true → step s = .next t → t.status = .error →
    t.errCause ≠ .none ∧ t.errKind = t.errCause.kind ∧ t.outLen = 0 ∧
    t.side = s.side ∧ t.sideWritten = s.sideWritten ∧
    t.bmpFile = s.bmpFile ∧ t.bmpInfo = s.bmpInfo ∧ t.recordsWritten = s.recordsWritten ∧
    t.inp = s.inp ∧ t.inLen = s.inLen ∧ t.out = s.out ∧ t.cmd = s.cmd ∧ t.params = s.params ∧
    t.overlap = s.overlap ∧ t.cmpt = s.cmpt ∧ t.draws = s.draws ∧
    hostReadOut t = .error .readNotPermitted ∧ hostReadError t = .ok (t.errKind.bits, t.errCause.bits)

/-- Which operation raises which causes, and so which kinds (R301 to R303, R307): the encoders raise none. -/
def Obligations.ErrorCausesByOperation : Prop :=
  ∀ s t : State, s.status = .busy ∨ s.start = true → step s = .next t → t.status = .error →
    (s.cmd = cmdBmpParse ∧
      ((t.errKind = .format ∧
          t.errCause ∈ [ErrCause.bmpShortFileHeader, .bmpBadSignature, .bmpShortInfoHeader]) ∨
        (t.errKind = .unsupported ∧ t.errCause = .bmpInfoTooSmall))) ∨
    (s.cmd = cmdLzwDec ∧ t.errKind = .corruption ∧ t.errCause ∈ [ErrCause.lzwBadWidth, .lzwBadLength, .lzwBadCode]) ∨
    (s.cmd = cmdLz77Dec ∧ t.errKind = .corruption ∧ t.errCause ∈ [ErrCause.lzBadFlag, .lzTruncated, .lzBadDistance])

/-- `ERR_KIND` and `ERR_CAUSE` are 0 unless `STATUS = ERROR` (R27), and `OUT_LEN` is 0 at `ERROR` (R25): every step
keeps it. -/
def Obligations.ErrorFlagsSoundKept : Prop :=
  ∀ s t : State, errorFlagsSound s → step s = .next t → errorFlagsSound t

/-! ### The BMP header parser -/

/-- The record `BMP_FILE_HDR` (R141, R143): held for the end, the cursor behind it. -/
def Obligations.BmpFileHeaderRecord : Prop :=
  ∀ (f : BmpFileFields) (s : State), s.status = .busy → s.cmd = cmdBmpParse → s.ip = 0 →
    (14 ≤ s.inLen → exec (.bmpFileHdr f) s = .next { s with
      fh := { signature := (0x42, 0x4D), fileSize := f.fileSize, reserved1 := f.reserved1, reserved2 := f.reserved2,
              dataOffset := f.dataOffset }
      ip := 14 }) ∧
    (s.inLen < 14 → exec (.bmpFileHdr f) s = .next (inError s .format .bmpShortFileHeader))

/-- The record `BMP_INFO_HDR` (R144 to R150): the three checks in their order, then both records at once, the four
signed fields as two's complement (R147, R355). -/
def Obligations.BmpInfoHeaderRecord : Prop :=
  ∀ (f : BmpInfoFields) (s : State), s.status = .busy → s.cmd = cmdBmpParse → s.ip = 14 →
    (s.inLen < 18 → exec (.bmpInfoHdr f) s = .next (inError s .format .bmpShortInfoHeader)) ∧
    (18 ≤ s.inLen → s.inLen < 18 + (f.headerSize.toNat - 4) →
      exec (.bmpInfoHdr f) s = .next (inError s .format .bmpShortInfoHeader)) ∧
    (18 ≤ s.inLen → 18 + (f.headerSize.toNat - 4) ≤ s.inLen → f.headerSize.toNat < 40 →
      exec (.bmpInfoHdr f) s = .next (inError s .unsupported .bmpInfoTooSmall)) ∧
    (14 + f.headerSize.toNat ≤ s.inLen → 40 ≤ f.headerSize.toNat →
      exec (.bmpInfoHdr f) s = .next { s with
        bmpFile := s.fh
        bmpInfo :=
          { headerSize := f.headerSize, width := f.width.toInt, height := f.height.toInt, planes := f.planes
            bitsPerPixel := f.bitsPerPixel, compression := f.compression, imageSize := f.imageSize
            xPixelsPerMeter := f.xPixelsPerMeter.toInt, yPixelsPerMeter := f.yPixelsPerMeter.toInt
            colorsUsed := f.colorsUsed, colorsImportant := f.colorsImportant }
        recordsWritten := true, ip := 14 + f.headerSize.toNat, status := .done })

/-- The first read of `BMP_PARSE` from the bytes of `IN` (R141, R142, R143): length, signature, fields. -/
def Obligations.BmpFirstRead : Prop :=
  ∀ (input : Bytes) (s : State), s.status = .busy → s.cmd = cmdBmpParse → s.ip = 0 → s.inputBytes = some input →
    (s.inLen < 14 → step s = .next (inError s .format .bmpShortFileHeader)) ∧
    (14 ≤ s.inLen → slice input 0 2 ≠ [0x42, 0x4D] → step s = .next (inError s .format .bmpBadSignature)) ∧
    (14 ≤ s.inLen → slice input 0 2 = [0x42, 0x4D] → step s = .next { s with
      fh := { signature := (0x42, 0x4D), fileSize := leU32 input 2, reserved1 := leU16 input 6
              reserved2 := leU16 input 8, dataOffset := leU32 input 10 }
      ip := 14 })

/-- The second and third read of `BMP_PARSE` from the bytes of `IN` (R144 to R149): with `hs` the announced size,
room for it, room for the rest, its size, then the eleven fields at their offsets; bytes beyond the 40th decide
nothing but the length. -/
def Obligations.BmpSecondAndThirdRead : Prop :=
  ∀ (input : Bytes) (s : State), s.status = .busy → s.cmd = cmdBmpParse → s.ip = 14 → s.inputBytes = some input →
    (s.inLen < 18 → step s = .next (inError s .format .bmpShortInfoHeader)) ∧
    (∀ hs, hs = (leU32 input 14).toNat → 18 ≤ s.inLen →
      (s.inLen < 18 + (hs - 4) → step s = .next (inError s .format .bmpShortInfoHeader)) ∧
      (18 + (hs - 4) ≤ s.inLen → hs < 40 → step s = .next (inError s .unsupported .bmpInfoTooSmall)) ∧
      (18 + (hs - 4) ≤ s.inLen → 40 ≤ hs → step s = .next { s with
        bmpFile := s.fh
        bmpInfo :=
          { headerSize := leU32 input 14, width := (leU32 input 18).toInt, height := (leU32 input 22).toInt
            planes := leU16 input 26, bitsPerPixel := leU16 input 28, compression := leU32 input 30
            imageSize := leU32 input 34, xPixelsPerMeter := (leU32 input 38).toInt
            yPixelsPerMeter := (leU32 input 42).toInt, colorsUsed := leU32 input 46
            colorsImportant := leU32 input 50 }
        recordsWritten := true, ip := 14 + hs, status := .done }))

/-- `BMP_PARSE` from its start to its outcome is the function of R152, in at most three steps. -/
def Obligations.BmpParseRunsAsTransaction : Prop :=
  ∀ (input : Bytes) (s : State), Ready cmdBmpParse input s →
    ∃ k, k ≤ 3 ∧
      match bmpParseBytes input with
      | .ok (f, i) => ∃ t, runSteps k s = .next t ∧ EndsOk s t [] ∧ t.bmpFile = f ∧ t.bmpInfo = i ∧
          t.recordsWritten = true ∧ t.side = s.side ∧ t.sideWritten = s.sideWritten
      | .error c => ∃ t, runSteps k s = .next t ∧ EndsInError s t c
      | .refused _ => False

/-! ### The dictionary codec -/

/-- Hit arm of `LZW_ENC` (R174): `w <- c`, nothing else but the cursor. -/
def Obligations.LzwEncHit : Prop :=
  ∀ (k : Byte) (s : State), s.status = .busy → s.cmd = cmdLzwEnc → s.ip < s.inLen → s.inp.read s.ip = some k →
    (dictLookup s.dict (s.w ++ [k])).isSome = true →
    exec .lzwEnc s = .next { s with w := s.w ++ [k], ip := s.ip + 1 }

/-- Miss arm of `LZW_ENC` (R175): emit the code of `w`, bind the candidate to `next_code`, restart from `k`; no
other binding changes. -/
def Obligations.LzwEncMiss : Prop :=
  ∀ (k : Byte) (code : Nat) (s : State), s.status = .busy → s.cmd = cmdLzwEnc → s.ip < s.inLen →
    s.inp.read s.ip = some k → dictLookup s.dict (s.w ++ [k]) = none → dictLookup s.dict s.w = some code →
    dictFits s.params s.nextCode = true →
    ∃ t, exec .lzwEnc s = .next t ∧
      t = { s with codes := s.codes ++ [code], dict := t.dict, nextCode := s.nextCode + 1, w := [k], ip := s.ip + 1 } ∧
      ∀ p, dictLookup t.dict p = if p = s.w ++ [k] then some s.nextCode else dictLookup s.dict p

/-- The end of `LZW_ENC` (R176 to R179): the flush, the least width that holds every emitted code, and the code words
in order, big-endian, from `OUT_LEN` on. -/
def Obligations.LzwEncEnd : Prop :=
  ∀ (codes : List Nat) (s : State), s.status = .busy → s.cmd = cmdLzwEnc → s.inLen ≤ s.ip →
    (s.w = [] ∧ codes = s.codes ∨ s.w ≠ [] ∧ ∃ code, dictLookup s.dict s.w = some code ∧ codes = s.codes ++ [code]) →
    (∀ c ∈ codes, c < 256 ^ 4) → s.params.outCap = none →
    ∃ t W, exec .lzwEnc s = .next t ∧ (W = 2 ∨ W = 3 ∨ W = 4) ∧ (∀ c ∈ codes, c < 256 ^ W) ∧
      (∀ W', 2 ≤ W' → (∀ c ∈ codes, c < 256 ^ W') → W ≤ W') ∧
      t = { s with
        codes := codes, side := BitVec.ofNat 8 W, sideWritten := true, status := .done
        out := t.out, outLen := s.outLen + W * codes.length } ∧
      (∀ n c, codes[n]? = some c →
        ∃ bs, t.out.readBytes (s.outLen + W * n) W = some bs ∧ beNat bs = c) ∧
      (∀ a, a < s.outLen ∨ s.outLen + W * codes.length ≤ a → t.out.read a = s.out.read a)

/-- Codes fit four bytes (R184): for every input of at most 2^32 - 1 bytes every emitted code is below 2^32; a list
with a larger one is refused. -/
def Obligations.LzwCodesFitFourBytes : Prop :=
  (∀ input : Bytes, input.length ≤ 2 ^ 32 - 1 → ∀ c ∈ lzwCodes input, c < 2 ^ 32) ∧
  (∀ (code c : Nat) (s : State), s.status = .busy → s.cmd = cmdLzwEnc → s.inLen ≤ s.ip → s.w ≠ [] →
    dictLookup s.dict s.w = some code → c ∈ s.codes ++ [code] → 2 ^ 32 ≤ c →
    exec .lzwEnc s = .refused .codeTooWide)

/-- Bounds of the code list (R181 (a), (c)): no more codes than input bytes, at least one for a non-empty input, and
the code at index `n` is at most `255 + n`. -/
def Obligations.LzwCodeListBounds : Prop :=
  ∀ input : Bytes, (lzwCodes input).length ≤ input.length ∧ (input ≠ [] → 1 ≤ (lzwCodes input).length) ∧
    ∀ n c, (lzwCodes input)[n]? = some c → c ≤ 255 + n

/-- The invariants of R29: they hold at the start of `LZW_ENC` and every micro-step keeps them. -/
def Obligations.DictSoundKept : Prop :=
  (∀ s t : State, s.status ≠ .busy → exec .lzwEnc s = .next t → DictSound t) ∧
  (∀ s t : State, s.status = .busy → s.cmd = cmdLzwEnc → DictSound s → step s = .next t → t.status = .busy →
    DictSound t)

/-- `LZW_ENC` from its start to its outcome is the function of R180: one step for the start, one for each input
byte, one for the end. -/
def Obligations.LzwEncRunsAsTransaction : Prop :=
  ∀ (input : Bytes) (s : State), Ready cmdLzwEnc input s → unbounded s →
    ∃ k, k ≤ s.inLen + 2 ∧
      match lzwEncodeBytes input with
      | .ok (out, w) => ∃ t, runSteps k s = .next t ∧ EndsOk s t out ∧ t.side = BitVec.ofNat 8 w ∧
          t.sideWritten = true ∧ recordsSame s t
      | .error _ => False
      | .refused r => runSteps k s = .refused r

/-- The first code word (R188), at each of the three widths: a seed code appends its byte and binds nothing; a code
of 256 or more is an error. -/
def Obligations.FirstCodeWord : Prop :=
  ∀ (i : Instr) (w code : Nat) (s : State), codeUnit i = some (w, code) → s.status = .busy → s.cmd = cmdLzwDec →
    s.width = w → s.prev = none →
    (code < 256 → tableLookup s.table code = some [BitVec.ofNat 8 code] →
      outFits s.params (s.outLen + 1) = true →
      ∃ t, exec i s = .next t ∧
        t = { s with out := t.out, outLen := s.outLen + 1, prev := some [BitVec.ofNat 8 code], ip := s.ip + w } ∧
        Stores s t s.outLen [BitVec.ofNat 8 code]) ∧
    (256 ≤ code → exec i s = .next (inError s .corruption .lzwBadCode))

/-- A legal code word after the first (R189, R190, R192), at each of the three widths: the phrase of a registered code,
or `prev` and its own first byte for the code `next_code`; it is appended, `prev` and its first byte are bound to
`next_code`, and nothing else changes. -/
def Obligations.CodeWordAfterFirst : Prop :=
  ∀ (i : Instr) (w code : Nat) (p : Phrase) (b : Byte) (bs : Phrase) (s : State), codeUnit i = some (w, code) →
    s.status = .busy → s.cmd = cmdLzwDec → s.width = w → s.prev = some p →
    (code < s.nextCode ∧ tableLookup s.table code = some (b :: bs) ∨
      code = s.nextCode ∧ p.head? = some b ∧ b :: bs = p ++ [b]) →
    dictFits s.params s.nextCode = true → outFits s.params (s.outLen + (b :: bs).length) = true →
    ∃ t, exec i s = .next t ∧
      t = { s with
        out := t.out, outLen := s.outLen + (b :: bs).length, table := t.table, nextCode := s.nextCode + 1
        prev := some (b :: bs), ip := s.ip + w } ∧
      Stores s t s.outLen (b :: bs) ∧
      ∀ c, tableLookup t.table c = if c = s.nextCode then some (p ++ [b]) else tableLookup s.table c

/-- An illegal code word after the first (R191): above the decoder's `next_code` at this word, which is
`256 + i - 1` for word `i`. -/
def Obligations.IllegalCodeWord : Prop :=
  ∀ (i : Instr) (w code : Nat) (p : Phrase) (s : State), codeUnit i = some (w, code) → s.status = .busy →
    s.cmd = cmdLzwDec → s.width = w → s.prev = some p → s.nextCode < code →
    exec i s = .next (inError s .corruption .lzwBadCode) ∧
      (TableSound s → s.nextCode = 256 + s.ip / w - 1 ∧ 1 ≤ s.ip / w)

/-- The end of the operations that end by the cursor (R193, R228, R236, R250): outcome Ok, and only `LZ77_ENC` writes
`SIDE`, with 0. -/
def Obligations.EndOfInput : Prop :=
  ∀ s : State, s.status = .busy → s.ip = s.inLen →
    (s.cmd = cmdLzwDec → exec .lzwDec s = .next { s with status := .done }) ∧
    (s.cmd = cmdLz77Dec → exec .lz77Dec s = .next { s with status := .done }) ∧
    (s.cmd = cmdLz77Enc → exec .lz77Enc s = .next { s with side := 0, sideWritten := true, status := .done })

/-- The table of `LZW_DEC` is bound exactly below `next_code`, one binding behind the encoder (R32, R93, R189, R352):
so it is at the first code word, and every micro-step keeps it. -/
def Obligations.TableSoundKept : Prop :=
  (∀ s t : State, s.status ≠ .busy → exec .lzwDec s = .next t → t.status = .busy → TableSound t) ∧
  (∀ s t : State, s.status = .busy → s.cmd = cmdLzwDec → TableSound s → step s = .next t → t.status = .busy →
    TableSound t)

/-- `LZW_DEC` from its start to its outcome is the function of R194. -/
def Obligations.LzwDecRunsAsTransaction : Prop :=
  ∀ (input : Bytes) (s : State), Ready cmdLzwDec input s → unbounded s →
    ∃ k, k ≤ s.inLen + 2 ∧
      match lzwDecodeBytes s.params.widthPolicy s.side.toNat input with
      | .ok out => ∃ t, runSteps k s = .next t ∧ EndsOk s t out ∧ t.side = s.side ∧ recordsSame s t
      | .error c => ∃ t, runSteps k s = .next t ∧ EndsInError s t c
      | .refused r => runSteps k s = .refused r

/-- The round trip of the dictionary codec (R197), over the functions the machine's runs are. -/
def Obligations.LzwRoundTrip : Prop :=
  ∀ (policy : Config.WidthPolicy) (input stream : Bytes) (w : Nat), lzwEncodeBytes input = .ok (stream, w) →
    lzwDecodeBytes policy w stream = .ok input

/-! ### The window-match codec -/

/-- The token `LIT` (R243): appends its byte; cut off, it is an error. -/
def Obligations.LitToken : Prop :=
  ∀ (v : BitVec 8) (s : State), s.status = .busy → s.cmd = cmdLz77Dec →
    (s.ip + 2 ≤ s.inLen → outFits s.params (s.outLen + 1) = true →
      ∃ t, exec (.lit v) s = .next t ∧ t = { s with out := t.out, outLen := s.outLen + 1, ip := s.ip + 2 } ∧
        Stores s t s.outLen [v]) ∧
    (s.inLen < s.ip + 2 → exec (.lit v) s = .next (inError s .corruption .lzTruncated))

/-- The token `MATCH` (R244, R246): appended byte `j` is `OUT[start + (j mod d)]`, every other byte of `OUT` is as
before; truncation and then the distance are checked, the length never. -/
def Obligations.MatchToken : Prop :=
  ∀ (d : BitVec 16) (l : BitVec 8) (s : State), s.status = .busy → s.cmd = cmdLz77Dec →
    (s.ip + 4 ≤ s.inLen → 1 ≤ d.toNat → d.toNat ≤ s.outLen → (∀ a, a < s.outLen → (s.out.read a).isSome = true) →
      outFits s.params (s.outLen + l.toNat) = true →
      ∃ t, exec (.matchTok d l) s = .next t ∧
        t = { s with out := t.out, outLen := s.outLen + l.toNat, ip := s.ip + 4 } ∧
        (∀ j, j < l.toNat → t.out.read (s.outLen + j) = s.out.read (s.outLen - d.toNat + j % d.toNat)) ∧
        (∀ a, a < s.outLen ∨ s.outLen + l.toNat ≤ a → t.out.read a = s.out.read a)) ∧
    (s.inLen < s.ip + 4 → exec (.matchTok d l) s = .next (inError s .corruption .lzTruncated)) ∧
    (s.ip + 4 ≤ s.inLen → d.toNat = 0 ∨ s.outLen < d.toNat →
      exec (.matchTok d l) s = .next (inError s .corruption .lzBadDistance))

/-- One micro-step of `LZ77_ENC` (R222 to R227) with the default tie-break: the nearest longest run of at least 3
bytes as a `MATCH`, else the byte as a `LIT`. That distance 4096 is inside the window (R223), that a match may overlap the
bytes it predicts (R224) and that the nearest of equally long runs is taken (R225) are the spec's own choices and its
reading (D13, D15, D14), which the spec marks as such. -/
def Obligations.Lz77EncMicroStep : Prop :=
  ∀ (input : Bytes) (s : State), s.status = .busy → s.cmd = cmdLz77Enc → s.ip < s.inLen → s.inputBytes = some input →
    s.params.tieBreak = .smallestDistance → s.params.outCap = none →
    ∃ t, exec .lz77Enc s = .next t ∧
      ((∃ d l, BestRun input s.ip d l ∧ 3 ≤ l ∧
          t = { s with out := t.out, outLen := s.outLen + 4, ip := s.ip + l } ∧
          Stores s t s.outLen [1, BitVec.ofNat 8 (d / 256), BitVec.ofNat 8 (d % 256), BitVec.ofNat 8 l]) ∨
        ((∀ d l, Candidate s.ip d → RunAt input s.ip d l → l ≤ 2) ∧
          ∃ v, input[s.ip]? = some v ∧
            t = { s with out := t.out, outLen := s.outLen + 2, ip := s.ip + 1 } ∧
            Stores s t s.outLen [0, v]))

/-- The errors of `LZ77_DEC` before any token is executed (R247, R249): the flag first, then the room for the token.
The causes are D17's order. -/
def Obligations.Lz77DecFetchErrors : Prop :=
  ∀ (flag : Byte) (s : State), s.status = .busy → s.cmd = cmdLz77Dec → s.ip < s.inLen → s.inputBytes.isSome = true →
    s.inp.read s.ip = some flag →
    (2 ≤ flag.toNat → step s = .next (inError s .corruption .lzBadFlag)) ∧
    (flag.toNat = 0 → s.inLen < s.ip + 2 → step s = .next (inError s .corruption .lzTruncated)) ∧
    (flag.toNat = 1 → s.inLen < s.ip + 4 → step s = .next (inError s .corruption .lzTruncated))

/-- `LZ77_DEC` from its start to its outcome is the function of R251. -/
def Obligations.Lz77DecRunsAsTransaction : Prop :=
  ∀ (input : Bytes) (s : State), Ready cmdLz77Dec input s → unbounded s →
    ∃ k, k ≤ s.inLen + 2 ∧
      match lz77DecodeBytes input with
      | .ok out => ∃ t, runSteps k s = .next t ∧ EndsOk s t out ∧ t.side = s.side ∧ recordsSame s t
      | .error c => ∃ t, runSteps k s = .next t ∧ EndsInError s t c
      | .refused _ => False

/-- `LZ77_ENC` from its start to its outcome is the function of R229; it has no error and is never refused. -/
def Obligations.Lz77EncRunsAsTransaction : Prop :=
  ∀ (input : Bytes) (s : State), Ready cmdLz77Enc input s → unbounded s →
    ∃ k t, k ≤ s.inLen + 2 ∧ runSteps k s = .next t ∧
      EndsOk s t (lz77EncodeBytes s.params.tieBreak input) ∧ t.side = 0 ∧ t.sideWritten = true ∧ recordsSame s t

/-- The round trip of the window-match codec (R253), under either tie-break. -/
def Obligations.Lz77RoundTrip : Prop :=
  ∀ (tb : Config.TieBreak) (input : Bytes), lz77DecodeBytes (lz77EncodeBytes tb input) = .ok input

/-- Worst-case output lengths (R62): `LZW_ENC` at most 4, `LZ77_ENC` at most 2 bytes for each input byte, `LZ77_DEC` at
most 255 for 4, `LZW_DEC` at most `k * (k + 1) / 2` for `k` code words. -/
def Obligations.WorstCaseOutputLengths : Prop :=
  (∀ (input out : Bytes) (w : Nat), lzwEncodeBytes input = .ok (out, w) → out.length ≤ 4 * input.length) ∧
  (∀ (tb : Config.TieBreak) (input : Bytes), (lz77EncodeBytes tb input).length ≤ 2 * input.length) ∧
  (∀ input out : Bytes, lz77DecodeBytes input = .ok out → 4 * out.length ≤ 255 * input.length) ∧
  (∀ (policy : Config.WidthPolicy) (w : Nat) (input out : Bytes), lzwDecodeBytes policy w input = .ok out →
    2 * out.length ≤ input.length / w * (input.length / w + 1))

/-! ### The container host layer -/

/-- `CMPT_HDR` read by `CMPT_LOAD` (R282, R283): version, algorithm id, payload length, then the codec is started on
the payload, with the side info for algorithm 1 and without it for algorithm 2. That a failed check is the call's
result only, with `STATUS`, `ERR_KIND` and `ERR_CAUSE` of the block as they were, is the model's choice (log 16), and so
is that the start is left pending for the next step (log 2). -/
def Obligations.CmptHdrLoads : Prop :=
  ∀ (h : CmptFields) (s : State), s.status ≠ .busy → s.start = false → s.cmpt.phase = .loadHeader →
    (h.version ≠ 1 → exec (.cmptHdr h) s = .next (inFailedCall s .unsupported .cmptBadVersion)) ∧
    (h.version = 1 → h.algorithmId ≠ 1 → h.algorithmId ≠ 2 →
      exec (.cmptHdr h) s = .next (inFailedCall s .unsupported .cmptBadAlgorithm)) ∧
    (h.version = 1 → (h.algorithmId = 1 ∨ h.algorithmId = 2) →
      s.cmpt.file.length < 20 + h.payloadLength.toNat →
      exec (.cmptHdr h) s = .next (inFailedCall s .corruption .cmptTruncated)) ∧
    (h.version = 1 → (h.algorithmId = 1 ∨ h.algorithmId = 2) → 20 + h.payloadLength.toNat ≤ s.cmpt.file.length →
      ∃ t, exec (.cmptHdr h) s = .next t ∧
        t = { s with
          inp := t.inp, inLen := h.payloadLength.toNat
          start := true, status := .starting, errKind := .none, errCause := .none, outLen := 0
          cmd := if h.algorithmId = 1 then cmdLzwDec else cmdLz77Dec
          side := if h.algorithmId = 1 then h.sideInfo else s.side
          sideWritten := if h.algorithmId = 1 then true else s.sideWritten
          cmpt := { s.cmpt with
            phase := .loadCodec, width := h.width.toNat, height := h.height.toNat, bpp := h.bitsPerPixel.toNat
            alg := h.algorithmId.toNat } } ∧
        ∀ a, t.inp.read a = if a < h.payloadLength.toNat then s.cmpt.file[20 + a]? else s.inp.read a)

/-- `CMPT_HDR` written by `CMPT_SAVE` (R272, R276, R277): the file is the 20 header bytes and then the payload; the
values returned are the two sizes and `elapsed`, of which nothing is said (R328). -/
def Obligations.CmptHdrSaves : Prop :=
  (∀ (h : CmptFields) (payload : Bytes) (s : State), s.status = .done → s.start = false → s.cmpt.phase = .saveCodec →
    s.outputBytes = some payload →
    ∃ e, exec (.cmptHdr h) s = .next { s with
      draws := s.draws + 1
      cmpt := { s.cmpt with
        phase := .idle, file := encode (.cmptHdr h) ++ payload
        result := .saved s.cmpt.pixels.length payload.length e } }) ∧
  (∀ (payload : Bytes) (s : State), s.status = .done → s.start = false → s.cmpt.phase = .saveCodec →
    s.outputBytes = some payload → s.cmpt.alg ≤ 255 → s.cmpt.bpp ≤ 255 → s.cmpt.width < 2 ^ 32 →
    s.cmpt.height < 2 ^ 32 →
    (s.outLen < 2 ^ 32 → ∃ e, step s = .next { s with
      draws := s.draws + 1
      cmpt := { s.cmpt with
        phase := .idle
        file := [0x43, 0x4D, 0x50, 0x54, 1, BitVec.ofNat 8 s.cmpt.alg, s.side, BitVec.ofNat 8 s.cmpt.bpp]
          ++ toLe 4 s.cmpt.width ++ toLe 4 s.cmpt.height ++ toLe 4 payload.length ++ payload
        result := .saved s.cmpt.pixels.length payload.length e } }) ∧
    (2 ^ 32 ≤ s.outLen → step s = .refused .payloadTooLong))

/-- The start of `CMPT_SAVE` (R273, R274, R275): arguments that do not fit are refused; else the codec is started on
the pixels, whose length is not compared with anything. That the start is left pending for the next step is the model's
choice (log 2). -/
def Obligations.CmptSaveStarts : Prop :=
  ∀ s : State, s.status ≠ .busy → s.start = false → s.cmpt.phase = .saveStart →
    ((s.cmpt.alg = 1 ∨ s.cmpt.alg = 2) ∧ s.cmpt.width < 2 ^ 32 ∧ s.cmpt.height < 2 ^ 32 ∧ s.cmpt.bpp ≤ 255 →
      ∃ t, step s = .next t ∧
        t = { s with
          inp := t.inp, inLen := s.cmpt.pixels.length
          start := true, status := .starting, errKind := .none, errCause := .none, outLen := 0
          cmd := if s.cmpt.alg = 1 then cmdLzwEnc else cmdLz77Enc
          cmpt := { s.cmpt with phase := .saveCodec } } ∧
        ∀ a, t.inp.read a = if a < s.cmpt.pixels.length then s.cmpt.pixels[a]? else s.inp.read a) ∧
    (¬ ((s.cmpt.alg = 1 ∨ s.cmpt.alg = 2) ∧ s.cmpt.width < 2 ^ 32 ∧ s.cmpt.height < 2 ^ 32 ∧ s.cmpt.bpp ≤ 255) →
      step s = .refused .saveArgument)

/-- The end of `CMPT_LOAD` (R283, R284, R317): a codec's error is passed on unchanged, a decoded length other than
`width * height * ceil(bits_per_pixel / 8)` is an error, and otherwise the pixels are returned. That an error is the
call's result only, so that after a length mismatch `STATUS` stays `DONE` with `ERR_KIND` and `ERR_CAUSE` 0, is the
model's choice (log 16). -/
def Obligations.CmptLoadEnds : Prop :=
  ∀ s : State, s.start = false → s.cmpt.phase = .loadCodec →
    (s.status = .error → step s = .next (inFailedCall s s.errKind s.errCause)) ∧
    (∀ pixels, s.status = .done → s.outputBytes = some pixels →
      (pixels.length = s.cmpt.width * s.cmpt.height * ((s.cmpt.bpp + 7) / 8) →
        step s = .next { s with cmpt := { s.cmpt with
          phase := .idle, result := .loaded s.cmpt.width s.cmpt.height s.cmpt.bpp pixels } }) ∧
      (pixels.length ≠ s.cmpt.width * s.cmpt.height * ((s.cmpt.bpp + 7) / 8) →
        step s = .next (inFailedCall s .corruption .cmptLengthMismatch)))

/-- `CMPT_LOAD` from its call to its return is the function of R285, the block's run inside it included. -/
def Obligations.CmptLoadRunsAsTransaction : Prop :=
  ∀ s : State, s.status ≠ .busy → s.start = false → s.cmpt.phase = .loadHeader → s.overlap = false → unbounded s →
    ∃ k, k ≤ s.cmpt.file.length + 4 ∧
      match cmptLoadBytes s.params s.cmpt.file with
      | .ok (w, h, b, pixels) => ∃ t, runSteps k s = .next t ∧ t.cmpt.phase = .idle ∧
          t.cmpt.result = .loaded w h b pixels ∧ t.params = s.params ∧ recordsSame s t ∧ t.draws = s.draws
      | .error c => ∃ t, runSteps k s = .next t ∧ t.cmpt.phase = .idle ∧ t.cmpt.result = .failed c.kind c ∧
          t.params = s.params ∧ recordsSame s t ∧ t.draws = s.draws
      | .refused r => runSteps k s = .refused r

/-- `CMPT_SAVE` from its call to its return is the function of R279, the block's run inside it included; it has no
error (R317). -/
def Obligations.CmptSaveRunsAsTransaction : Prop :=
  ∀ s : State, s.status ≠ .busy → s.start = false → s.cmpt.phase = .saveStart → s.overlap = false → unbounded s →
    ∃ k, k ≤ s.cmpt.pixels.length + 4 ∧
      match cmptSaveBytes s.params s.cmpt.width s.cmpt.height s.cmpt.bpp s.cmpt.pixels s.cmpt.alg with
      | .ok file => ∃ t e, runSteps k s = .next t ∧ t.cmpt.phase = .idle ∧ t.cmpt.file = file ∧
          t.cmpt.result = .saved s.cmpt.pixels.length (file.length - 20) e ∧ t.params = s.params ∧ recordsSame s t ∧
          t.draws = s.draws + 1
      | .error _ => False
      | .refused r => runSteps k s = .refused r

/-- The round trip of the container (R287), for both algorithms. -/
def Obligations.CmptRoundTrip : Prop :=
  ∀ (p : Config.Params) (width height bpp alg : Nat) (pixels file : Bytes), 2 ^ 32 - 1 ≤ p.maxInputLen →
    width < 2 ^ 32 → height < 2 ^ 32 → bpp ≤ 255 → pixels.length = width * height * ((bpp + 7) / 8) →
    (alg = 1 ∨ alg = 2) → cmptSaveBytes p width height bpp pixels alg = .ok file →
    cmptLoadBytes p file = .ok (width, height, bpp, pixels)

/-! ### The whole machine -/

/-- Both byte spaces keep their canonical form. -/
def Obligations.MemoryCanonicalKept : Prop :=
  ∀ s t : State, memoriesCanonical s → step s = .next t → memoriesCanonical t

/-- Every step keeps the invariant (R25, R27, R28, R29, R32). -/
def Obligations.SoundKept : Prop := ∀ s t : State, Sound s → step s = .next t → Sound t

/-- In a sound state a step never faults: nothing unwritten or unbound is read. -/
def Obligations.SoundStatesAreSafe : Prop := ∀ s : State, Sound s → Safe s

/-- The engine never writes `IN` and writes `OUT` only by append (R60, R67): what stands below `OUT_LEN` stays, and
so does every byte above the appended ones. -/
def Obligations.EngineWritesOnlyByAppend : Prop :=
  ∀ s t : State, s.status = .busy → step s = .next t →
    t.inp = s.inp ∧ t.inLen = s.inLen ∧ t.params = s.params ∧ t.overlap = s.overlap ∧ t.cmpt = s.cmpt ∧
    (t.status = .error ∧ t.out = s.out ∨
      t.status ≠ .error ∧ s.outLen ≤ t.outLen ∧
        ∀ a, a < s.outLen ∨ t.outLen ≤ a → t.out.read a = s.out.read a)

/-- The records change only where `BMP_PARSE` ends Ok, and `SIDE` only where an encoder ends Ok or where `CMPT_LOAD`
hands over the stored side info (R24, R35, R150, R283). -/
def Obligations.RecordsAndSideChangeOnlyThere : Prop :=
  ∀ s t : State, step s = .next t →
    (t.bmpFile ≠ s.bmpFile ∨ t.bmpInfo ≠ s.bmpInfo ∨ t.recordsWritten ≠ s.recordsWritten →
      s.status = .busy ∧ s.cmd = cmdBmpParse ∧ t.status = .done) ∧
    (t.side ≠ s.side →
      s.status = .busy ∧ (s.cmd = cmdLzwEnc ∨ s.cmd = cmdLz77Enc) ∧ t.status = .done ∨
        s.status ≠ .busy ∧ s.start = false ∧ s.cmpt.phase = .loadHeader ∧ t.cmd = cmdLzwDec)

/-- The cursor only moves forward and never passes the input (R28), so every operation ends (R321). -/
def Obligations.CursorAdvances : Prop :=
  ∀ s t : State, Sound s → s.status = .busy → step s = .next t → t.status = .busy → s.ip < t.ip ∧ t.ip ≤ s.inLen

/-- What the host may read (R70): results only at `DONE`, the error only at `ERROR`. And its moves (R345), whose form is
the model's choice (log 17, and log 2 for the start): none while an operation runs or is started (R26) or a call of the
host layer is in progress; else each changes its own registers, buffer or arguments only. Bytes of `IN` beyond the
loaded ones stay. -/
def Obligations.HostAccess : Prop :=
  ∀ s : State,
    (s.status ≠ .done → hostReadOut s = .error .readNotPermitted ∧ hostReadOutLen s = .error .readNotPermitted ∧
      hostReadSide s = .error .readNotPermitted ∧ hostReadRecords s = .error .readNotPermitted) ∧
    (s.status = .done → hostReadOutLen s = .ok s.outLen ∧ hostReadSide s = .ok s.side ∧
      (s.recordsWritten = true → hostReadRecords s = .ok (s.bmpFile, s.bmpInfo)) ∧
      ∀ bs, s.outputBytes = some bs → hostReadOut s = .ok bs) ∧
    (s.status ≠ .error → hostReadError s = .error .readNotPermitted) ∧
    (s.status = .error → hostReadError s = .ok (s.errKind.bits, s.errCause.bits)) ∧
    (∀ bs v c w h b px alg file,
      s.status = .busy ∨ s.status = .starting ∨ s.start = true ∨ s.cmpt.phase ≠ .idle →
      hostLoadInput bs s = .refused .hostMoveWhileBusy ∧ hostWriteSide v s = .refused .hostMoveWhileBusy ∧
      hostWriteCmd c s = .refused .hostMoveWhileBusy ∧ hostStart s = .refused .hostMoveWhileBusy ∧
      hostCallSave w h b px alg s = .refused .hostMoveWhileBusy ∧
      hostCallLoad file s = .refused .hostMoveWhileBusy) ∧
    (∀ bs v c w h b px alg file,
      s.status ≠ .busy → s.status ≠ .starting → s.start = false → s.cmpt.phase = .idle →
      hostWriteSide v s = .next { s with side := v, sideWritten := true } ∧
      hostWriteCmd c s = .next { s with cmd := c } ∧
      hostCallSave w h b px alg s = .next { s with cmpt := { s.cmpt with
        phase := .saveStart, width := w, height := h, bpp := b, pixels := px, alg := alg } } ∧
      hostCallLoad file s = .next { s with cmpt := { s.cmpt with phase := .loadHeader, file := file } } ∧
      (∀ t, hostStart s = .next t → t = { s with
        start := true, status := .starting, errKind := .none, errCause := .none, outLen := 0 }) ∧
      ∃ t, hostLoadInput bs s = .next t ∧ t = { s with inp := t.inp, inLen := bs.length } ∧
        ∀ a, t.inp.read a = if a < bs.length then bs[a]? else s.inp.read a)

/-- Where a unit stops by name. A finite `OUT_CAP` or `DICT_CAP` refuses, never faults (D6, D7); a unit or record
outside the operation that executes it is refused, which is the model's choice (log 13). -/
def Obligations.UnitsRefusedByName : Prop :=
  (∀ (v : BitVec 8) (s : State), s.status = .busy → s.cmd = cmdLz77Dec → s.ip + 2 ≤ s.inLen →
    outFits s.params (s.outLen + 1) = false → exec (.lit v) s = .refused .outCapExceeded) ∧
  (∀ (d : BitVec 16) (l : BitVec 8) (s : State), s.status = .busy → s.cmd = cmdLz77Dec → s.ip + 4 ≤ s.inLen →
    1 ≤ d.toNat → d.toNat ≤ s.outLen → (∀ a, a < s.outLen → (s.out.read a).isSome = true) → 1 ≤ l.toNat →
    outFits s.params (s.outLen + l.toNat) = false → exec (.matchTok d l) s = .refused .outCapExceeded) ∧
  (∀ (i : Instr) (w code : Nat) (p : Phrase) (b : Byte) (bs : Phrase) (s : State), codeUnit i = some (w, code) →
    s.status = .busy → s.cmd = cmdLzwDec → s.width = w → s.prev = some p → code < s.nextCode →
    tableLookup s.table code = some (b :: bs) →
    (dictFits s.params s.nextCode = false → exec i s = .refused .dictCapExceeded) ∧
    (dictFits s.params s.nextCode = true → outFits s.params (s.outLen + (b :: bs).length) = false →
      exec i s = .refused .outCapExceeded)) ∧
  (∀ (k : Byte) (code : Nat) (s : State), s.status = .busy → s.cmd = cmdLzwEnc → s.ip < s.inLen →
    s.inp.read s.ip = some k → dictLookup s.dict (s.w ++ [k]) = none → dictLookup s.dict s.w = some code →
    dictFits s.params s.nextCode = false → exec .lzwEnc s = .refused .dictCapExceeded) ∧
  (∀ (v l : BitVec 8) (d : BitVec 16) (s : State), s.status ≠ .busy ∨ s.cmd ≠ cmdLz77Dec →
    exec (.lit v) s = .refused .unitOutsideOperation ∧ exec (.matchTok d l) s = .refused .unitOutsideOperation) ∧
  (∀ (i : Instr) (w code : Nat) (s : State), codeUnit i = some (w, code) →
    s.status ≠ .busy ∨ s.cmd ≠ cmdLzwDec ∨ s.width ≠ w → exec i s = .refused .unitOutsideOperation) ∧
  (∀ (f : BmpFileFields) (g : BmpInfoFields) (s : State), s.status ≠ .busy ∨ s.cmd ≠ cmdBmpParse →
    exec (.bmpFileHdr f) s = .refused .unitOutsideOperation ∧
    exec (.bmpInfoHdr g) s = .refused .unitOutsideOperation) ∧
  (∀ (h : CmptFields) (s : State),
    s.status = .busy ∨ s.start = true ∨ (s.cmpt.phase ≠ .loadHeader ∧ s.cmpt.phase ≠ .saveCodec) →
    exec (.cmptHdr h) s = .refused .unitOutsideOperation)

/-- The host's start sets `BUSY` (R26): from a well-formed launch (R342) `STATUS` reads 1 at once, with no error and
`OUT_LEN` 0 (R25, R27, R42), and until the end the host reads no result and no error (R70) and has no move (D34). That
the engine takes the start up with the next step, and that a start whose launch is refused is refused at the move and
changes nothing, is the model's choice (log 2, log 17). -/
def Obligations.HostStartSetsBusy : Prop :=
  (∀ s : State, s.status ≠ .busy → s.status ≠ .starting → s.start = false → s.cmpt.phase = .idle →
    (LaunchPremises s.cmd s → ((s.cmd = cmdLzwEnc ∨ s.cmd = cmdLzwDec) → dictFits s.params 255 = true) →
      (s.cmd = cmdLzwDec → s.side.toNat ∈ Config.lzwWidths ∨ s.params.widthPolicy = .fault) →
      ∃ t, hostStart s = .next t ∧
        t = { s with start := true, status := .starting, errKind := .none, errCause := .none, outLen := 0 } ∧
        hostReadStatus t = 1 ∧ step t = exec (decodeCommand s.cmd) t ∧
        ∃ u, step t = .next u ∧ (hostReadStatus u = 1 ∨ s.cmd = cmdLzwDec ∧ u.status = .error)) ∧
    (∀ r, exec (decodeCommand s.cmd) s = .refused r → hostStart s = .refused r)) ∧
  (∀ (s : State) (bs : Bytes) (v : BitVec 8) (c : BitVec 3) (w h b alg : Nat) (px file : Bytes),
    hostReadStatus s = 1 →
    hostReadOut s = .error .readNotPermitted ∧ hostReadOutLen s = .error .readNotPermitted ∧
    hostReadSide s = .error .readNotPermitted ∧ hostReadRecords s = .error .readNotPermitted ∧
    hostReadError s = .error .readNotPermitted ∧
    hostLoadInput bs s = .refused .hostMoveWhileBusy ∧ hostWriteSide v s = .refused .hostMoveWhileBusy ∧
    hostWriteCmd c s = .refused .hostMoveWhileBusy ∧ hostStart s = .refused .hostMoveWhileBusy ∧
    hostCallSave w h b px alg s = .refused .hostMoveWhileBusy ∧ hostCallLoad file s = .refused .hostMoveWhileBusy)
end

