-- ==== Sys2Proof/Laws/Bytes.lean ====
section
/-! SUPPORT. The integer conversions of R10: lengths, ranges, and that each reader undoes its writer. -/

namespace Sys2Proof

@[simp] theorem toBe_length (n v : Nat) : (toBe n v).length = n := by
  induction n generalizing v with
  | zero => rfl
  | succ n ih => simp [toBe, ih]

@[simp] theorem toLe_length (n v : Nat) : (toLe n v).length = n := by
  induction n generalizing v with
  | zero => rfl
  | succ n ih => simp [toLe, ih]

theorem beNatFrom_append (acc : Nat) (as bs : Bytes) : beNatFrom acc (as ++ bs) = beNatFrom (beNatFrom acc as) bs := by
  induction as generalizing acc with
  | nil => rfl
  | cons a as ih => simpa [beNatFrom] using ih _

theorem beNatFrom_eq (acc : Nat) (bs : Bytes) : beNatFrom acc bs = acc * 256 ^ bs.length + beNat bs := by
  induction bs generalizing acc with
  | nil => simp [beNatFrom, beNat]
  | cons b bs ih =>
    have h1 := ih (acc * 256 + b.toNat)
    have h2 := ih (0 * 256 + b.toNat)
    simp only [beNatFrom, beNat, List.length_cons] at *
    rw [h1, h2, pow_succ]; ring

theorem beNat_append_singleton (bs : Bytes) (b : Byte) : beNat (bs ++ [b]) = beNat bs * 256 + b.toNat := by
  simp [beNat, beNatFrom_append, beNatFrom]

theorem beNat_lt (bs : Bytes) : beNat bs < 256 ^ bs.length := by
  induction bs using List.reverseRecOn with
  | nil => simp [beNat, beNatFrom]
  | append_singleton bs b ih =>
    have := b.isLt
    rw [beNat_append_singleton, List.length_append, List.length_singleton, pow_succ]
    omega

/-- `be_n` undoes `to_be` (R10). -/
theorem beNat_toBe (n v : Nat) : beNat (toBe n v) = v % 256 ^ n := by
  induction n generalizing v with
  | zero => simp [toBe, beNat, beNatFrom, Nat.mod_one]
  | succ n ih =>
    rw [toBe, beNat_append_singleton, ih, BitVec.toNat_ofNat, pow_succ 256 n, Nat.mul_comm (256 ^ n) 256,
      Nat.mod_mul]
    omega

/-- `to_be` undoes `be_n` (R10). -/
theorem toBe_beNat (bs : Bytes) : toBe bs.length (beNat bs) = bs := by
  induction bs using List.reverseRecOn with
  | nil => rfl
  | append_singleton bs b ih =>
    have hb := b.isLt
    rw [List.length_append, List.length_singleton, toBe, beNat_append_singleton]
    have h1 : (beNat bs * 256 + b.toNat) / 256 = beNat bs := by omega
    rw [h1, ih]
    congr 2
    apply BitVec.eq_of_toNat_eq
    rw [BitVec.toNat_ofNat]; omega

/-- `le_n` undoes `to_le` (R10). -/
theorem leNat_toLe (n v : Nat) : leNat (toLe n v) = v % 256 ^ n := by
  induction n generalizing v with
  | zero => simp [toLe, leNat, Nat.mod_one]
  | succ n ih =>
    rw [toLe, leNat, ih, BitVec.toNat_ofNat, pow_succ 256 n, Nat.mul_comm (256 ^ n) 256, Nat.mod_mul]

theorem leNat_lt (bs : Bytes) : leNat bs < 256 ^ bs.length := by
  induction bs with
  | nil => simp [leNat]
  | cons b bs ih =>
    have := b.isLt
    rw [leNat, List.length_cons, pow_succ]; omega

/-- `to_le` undoes `le_n` (R10). -/
theorem toLe_leNat (bs : Bytes) : toLe bs.length (leNat bs) = bs := by
  induction bs with
  | nil => rfl
  | cons b bs ih =>
    have hb := b.isLt
    rw [List.length_cons, toLe, leNat]
    have h1 : (b.toNat + 256 * leNat bs) / 256 = leNat bs := by omega
    rw [h1, ih]
    congr 1
    apply BitVec.eq_of_toNat_eq
    rw [BitVec.toNat_ofNat]; omega

@[simp] theorem slice_length (bs : Bytes) (off n : Nat) : (slice bs off n).length = min n (bs.length - off) := by
  simp [slice]

end Sys2Proof
end

