-- ==== Sys2Proof/Laws/Memory.lean ====
section
/-! SUPPORT. What the operations over byte spaces can do: read over write, and that every write keeps the canonical
form. -/

namespace Sys2Proof.Machine

/-! ### One byte -/

@[simp] theorem Memory.read_nil (a : Nat) : Memory.read [] a = none := rfl

theorem Memory.read_write (m : Memory) (a x : Nat) (v : Byte) :
    (m.write a v).read x = if x = a then some v else m.read x := by
  induction m with
  | nil =>
    by_cases h : x = a
    · simp [Memory.write, Memory.read, h]
    · have h' : ¬ a = x := fun e => h e.symm
      simp [Memory.write, Memory.read, h, h']
  | cons c m ih =>
    obtain ⟨y, b⟩ := c
    simp only [Memory.write]
    split
    · by_cases h : x = a
      · simp [Memory.read, h]
      · have h' : ¬ a = x := fun e => h e.symm
        simp [Memory.read, h, h']
    · split
      · rename_i h1 h2
        subst h2
        by_cases h : x = a
        · simp [Memory.read, h]
        · have : ¬ a = x := fun e => h e.symm
          simp [Memory.read, h, this]
      · rename_i h1 h2
        simp only [Memory.read, ih]
        by_cases h : y = x
        · have : x ≠ a := by omega
          simp [h, this]
        · simp [h]

@[simp] theorem Memory.read_write_same (m : Memory) (a : Nat) (v : Byte) : (m.write a v).read a = some v := by
  simp [Memory.read_write]

theorem Memory.read_write_other (m : Memory) {a x : Nat} (v : Byte) (h : x ≠ a) : (m.write a v).read x = m.read x := by
  simp [Memory.read_write, h]

/-! ### The canonical form -/

@[simp] theorem Memory.wf_nil : Memory.wf [] = true := rfl

theorem Memory.wf_cons {a : Nat} {b : Byte} {m : Memory} :
    Memory.wf ((a, b) :: m) = true ↔ (∀ y ∈ m.head?, a < y.1) ∧ Memory.wf m = true := by
  cases m with
  | nil => simp [Memory.wf]
  | cons c m => obtain ⟨y, d⟩ := c; simp [Memory.wf]

theorem Memory.write_head (m : Memory) (a : Nat) (v : Byte) :
    ∀ y ∈ (m.write a v).head?, y.1 = a ∨ ∃ z ∈ m.head?, z.1 = y.1 := by
  cases m with
  | nil => simp [Memory.write]
  | cons c m =>
    obtain ⟨x, b⟩ := c
    simp only [Memory.write]
    split
    · simp
    · split <;> simp

theorem Memory.write_wf {m : Memory} (h : m.wf = true) (a : Nat) (v : Byte) : (m.write a v).wf = true := by
  induction m with
  | nil => rfl
  | cons c m ih =>
    obtain ⟨x, b⟩ := c
    have hx := Memory.wf_cons.mp h
    simp only [Memory.write]
    split
    · exact Memory.wf_cons.mpr ⟨by simpa using by assumption, h⟩
    · split
      · rename_i h1 h2
        exact Memory.wf_cons.mpr ⟨by simpa [h2] using hx.1, hx.2⟩
      · rename_i h1 h2
        refine Memory.wf_cons.mpr ⟨fun y hy => ?_, ih hx.2⟩
        rcases Memory.write_head m a v y hy with e | ⟨z, hz, e⟩
        · omega
        · have := hx.1 z hz; omega

/-! ### Byte strings -/

theorem Memory.writeBytes_wf {m : Memory} (h : m.wf = true) (a : Nat) (bs : Bytes) : (m.writeBytes a bs).wf = true := by
  induction bs generalizing m a with
  | nil => exact h
  | cons b bs ih => exact ih (Memory.write_wf h a b) (a + 1)

/-- A write changes the written addresses and no other. -/
theorem Memory.read_writeBytes (m : Memory) (a : Nat) (bs : Bytes) (x : Nat) :
    (m.writeBytes a bs).read x = if a ≤ x ∧ x < a + bs.length then bs[x - a]? else m.read x := by
  induction bs generalizing m a with
  | nil =>
    have h : ¬ (a ≤ x ∧ x < a + ([] : Bytes).length) := by simp
    rw [if_neg h]; rfl
  | cons b bs ih =>
    simp only [Memory.writeBytes, ih, Memory.read_write, List.length_cons]
    by_cases h : x = a
    · subst h
      have h1 : ¬ (x + 1 ≤ x ∧ x < x + 1 + bs.length) := by omega
      have h2 : x ≤ x ∧ x < x + (bs.length + 1) := by omega
      rw [if_neg h1, if_pos rfl, if_pos h2, Nat.sub_self]; rfl
    · by_cases h1 : a + 1 ≤ x ∧ x < a + 1 + bs.length
      · have h2 : a ≤ x ∧ x < a + (bs.length + 1) := by omega
        have h3 : x - a = (x - (a + 1)) + 1 := by omega
        rw [if_pos h1, if_pos h2, h3]; rfl
      · have h2 : ¬ (a ≤ x ∧ x < a + (bs.length + 1)) := by omega
        rw [if_neg h1, if_neg h2, if_neg h]

@[simp] theorem Memory.readBytes_zero (m : Memory) (a : Nat) : m.readBytes a 0 = some [] := rfl

/-- What a run of reads answers: the bytes at the addresses, in order. -/
theorem Memory.readBytes_eq_some {m : Memory} {a n : Nat} {bs : Bytes} :
    m.readBytes a n = some bs ↔ bs.length = n ∧ ∀ i < n, m.read (a + i) = bs[i]? := by
  induction n generalizing a bs with
  | zero => cases bs <;> simp
  | succ n ih =>
    simp only [Memory.readBytes]
    cases hr : m.read a with
    | none =>
      refine ⟨fun h => (by cases h), fun ⟨hl, h⟩ => ?_⟩
      have h0 := h 0 (by omega)
      simp only [Nat.add_zero, hr] at h0
      cases bs with
      | nil => simp at hl
      | cons b bs => simp at h0
    | some b =>
      cases hb : m.readBytes (a + 1) n with
      | none =>
        refine ⟨fun h => (by cases h), fun ⟨hl, h⟩ => ?_⟩
        cases bs with
        | nil => simp at hl
        | cons c bs =>
          have : m.readBytes (a + 1) n = some bs := ih.mpr ⟨by simpa using hl, fun i hi => by
            have := h (i + 1) (by omega)
            simpa [Nat.add_assoc, Nat.add_comm 1 i] using this⟩
          simp [hb] at this
      | some cs =>
        have hcs := ih.mp hb
        simp only [Option.some.injEq]
        constructor
        · rintro rfl
          refine ⟨by simp [hcs.1], fun i hi => ?_⟩
          cases i with
          | zero => simpa using hr
          | succ i =>
            have := hcs.2 i (by omega)
            simpa [Nat.add_assoc, Nat.add_comm 1 i] using this
        · rintro ⟨hl, h⟩
          cases bs with
          | nil => simp at hl
          | cons c bs =>
            have h0 := h 0 (by omega)
            simp only [Nat.add_zero, hr, List.length_cons, Nat.zero_lt_succ, List.getElem?_eq_getElem,
              List.getElem_cons_zero, Option.some.injEq] at h0
            have : m.readBytes (a + 1) n = some bs := ih.mpr ⟨by simpa using hl, fun i hi => by
              have := h (i + 1) (by omega)
              simpa [Nat.add_assoc, Nat.add_comm 1 i] using this⟩
            rw [hb] at this
            cases this
            rw [h0]

theorem Memory.readBytes_length {m : Memory} {a n : Nat} {bs : Bytes} (h : m.readBytes a n = some bs) : bs.length = n :=
  (Memory.readBytes_eq_some.mp h).1

theorem Memory.readBytes_isSome {m : Memory} {a n : Nat} :
    (m.readBytes a n).isSome = true ↔ ∀ i < n, (m.read (a + i)).isSome = true := by
  induction n generalizing a with
  | zero => simp
  | succ n ih =>
    simp only [Memory.readBytes]
    cases hr : m.read a with
    | none => exact ⟨fun h => by simp at h, fun h => by simpa [hr] using h 0 (by omega)⟩
    | some b =>
      have key : ((m.readBytes (a + 1) n).isSome = true) ↔ ∀ i < n + 1, (m.read (a + i)).isSome = true := by
        rw [ih]
        constructor
        · intro h i hi
          cases i with
          | zero => simp [hr]
          | succ i => simpa [Nat.add_assoc, Nat.add_comm 1 i] using h i (by omega)
        · intro h i hi
          simpa [Nat.add_assoc, Nat.add_comm 1 i] using h (i + 1) (by omega)
      rw [← key]
      cases m.readBytes (a + 1) n <;> simp

/-- Reading back what was written. -/
theorem Memory.readBytes_writeBytes (m : Memory) (a : Nat) (bs : Bytes) :
    (m.writeBytes a bs).readBytes a bs.length = some bs := by
  refine Memory.readBytes_eq_some.mpr ⟨rfl, fun i hi => ?_⟩
  rw [Memory.read_writeBytes, if_pos (by omega)]
  simp

/-- Appending at the end of what is written. -/
theorem Memory.readBytes_append {m : Memory} {a n : Nat} {bs : Bytes} (h : m.readBytes a n = some bs) (cs : Bytes) :
    (m.writeBytes (a + n) cs).readBytes a (n + cs.length) = some (bs ++ cs) := by
  have hb := Memory.readBytes_eq_some.mp h
  refine Memory.readBytes_eq_some.mpr ⟨by simp [hb.1], fun i hi => ?_⟩
  rw [Memory.read_writeBytes]
  by_cases hi2 : i < n
  · rw [if_neg (by omega), hb.2 i hi2, List.getElem?_append_left (by omega)]
  · rw [if_pos (by omega), List.getElem?_append_right (by omega), hb.1]
    congr 1; omega

/-- The byte spaces of the reset state are in canonical form. -/
theorem reset_memories_wf : State.reset.inp.wf = true ∧ State.reset.out.wf = true := ⟨rfl, rfl⟩

end Sys2Proof.Machine
end

