-- ==== Sys2Proof/Laws/State.lean ====
section
/-! SUPPORT. One lemma per field per update of the state, each true by definition. -/

namespace Sys2Proof.Machine


/-! ### State.appended -/

@[simp] theorem State.appended_params (s : State) (bs : Bytes) : (s.appended bs).params = s.params := rfl
@[simp] theorem State.appended_cmd (s : State) (bs : Bytes) : (s.appended bs).cmd = s.cmd := rfl
@[simp] theorem State.appended_side (s : State) (bs : Bytes) : (s.appended bs).side = s.side := rfl
@[simp] theorem State.appended_sideWritten (s : State) (bs : Bytes) : (s.appended bs).sideWritten = s.sideWritten := rfl
@[simp] theorem State.appended_inLen (s : State) (bs : Bytes) : (s.appended bs).inLen = s.inLen := rfl
@[simp] theorem State.appended_outLen (s : State) (bs : Bytes) : (s.appended bs).outLen = s.outLen + bs.length := rfl
@[simp] theorem State.appended_status (s : State) (bs : Bytes) : (s.appended bs).status = s.status := rfl
@[simp] theorem State.appended_errKind (s : State) (bs : Bytes) : (s.appended bs).errKind = s.errKind := rfl
@[simp] theorem State.appended_errCause (s : State) (bs : Bytes) : (s.appended bs).errCause = s.errCause := rfl
@[simp] theorem State.appended_start (s : State) (bs : Bytes) : (s.appended bs).start = s.start := rfl
@[simp] theorem State.appended_inp (s : State) (bs : Bytes) : (s.appended bs).inp = s.inp := rfl
@[simp] theorem State.appended_out (s : State) (bs : Bytes) : (s.appended bs).out = s.out.writeBytes s.outLen bs := rfl
@[simp] theorem State.appended_overlap (s : State) (bs : Bytes) : (s.appended bs).overlap = s.overlap := rfl
@[simp] theorem State.appended_bmpFile (s : State) (bs : Bytes) : (s.appended bs).bmpFile = s.bmpFile := rfl
@[simp] theorem State.appended_bmpInfo (s : State) (bs : Bytes) : (s.appended bs).bmpInfo = s.bmpInfo := rfl
@[simp] theorem State.appended_recordsWritten (s : State) (bs : Bytes) : (s.appended bs).recordsWritten = s.recordsWritten := rfl
@[simp] theorem State.appended_ip (s : State) (bs : Bytes) : (s.appended bs).ip = s.ip := rfl
@[simp] theorem State.appended_nextCode (s : State) (bs : Bytes) : (s.appended bs).nextCode = s.nextCode := rfl
@[simp] theorem State.appended_dict (s : State) (bs : Bytes) : (s.appended bs).dict = s.dict := rfl
@[simp] theorem State.appended_w (s : State) (bs : Bytes) : (s.appended bs).w = s.w := rfl
@[simp] theorem State.appended_codes (s : State) (bs : Bytes) : (s.appended bs).codes = s.codes := rfl
@[simp] theorem State.appended_table (s : State) (bs : Bytes) : (s.appended bs).table = s.table := rfl
@[simp] theorem State.appended_prev (s : State) (bs : Bytes) : (s.appended bs).prev = s.prev := rfl
@[simp] theorem State.appended_width (s : State) (bs : Bytes) : (s.appended bs).width = s.width := rfl
@[simp] theorem State.appended_fh (s : State) (bs : Bytes) : (s.appended bs).fh = s.fh := rfl
@[simp] theorem State.appended_cmpt (s : State) (bs : Bytes) : (s.appended bs).cmpt = s.cmpt := rfl
@[simp] theorem State.appended_draws (s : State) (bs : Bytes) : (s.appended bs).draws = s.draws := rfl

/-! ### State.advance -/

@[simp] theorem State.advance_params (s : State) (n : Nat) : (s.advance n).params = s.params := rfl
@[simp] theorem State.advance_cmd (s : State) (n : Nat) : (s.advance n).cmd = s.cmd := rfl
@[simp] theorem State.advance_side (s : State) (n : Nat) : (s.advance n).side = s.side := rfl
@[simp] theorem State.advance_sideWritten (s : State) (n : Nat) : (s.advance n).sideWritten = s.sideWritten := rfl
@[simp] theorem State.advance_inLen (s : State) (n : Nat) : (s.advance n).inLen = s.inLen := rfl
@[simp] theorem State.advance_outLen (s : State) (n : Nat) : (s.advance n).outLen = s.outLen := rfl
@[simp] theorem State.advance_status (s : State) (n : Nat) : (s.advance n).status = s.status := rfl
@[simp] theorem State.advance_errKind (s : State) (n : Nat) : (s.advance n).errKind = s.errKind := rfl
@[simp] theorem State.advance_errCause (s : State) (n : Nat) : (s.advance n).errCause = s.errCause := rfl
@[simp] theorem State.advance_start (s : State) (n : Nat) : (s.advance n).start = s.start := rfl
@[simp] theorem State.advance_inp (s : State) (n : Nat) : (s.advance n).inp = s.inp := rfl
@[simp] theorem State.advance_out (s : State) (n : Nat) : (s.advance n).out = s.out := rfl
@[simp] theorem State.advance_overlap (s : State) (n : Nat) : (s.advance n).overlap = s.overlap := rfl
@[simp] theorem State.advance_bmpFile (s : State) (n : Nat) : (s.advance n).bmpFile = s.bmpFile := rfl
@[simp] theorem State.advance_bmpInfo (s : State) (n : Nat) : (s.advance n).bmpInfo = s.bmpInfo := rfl
@[simp] theorem State.advance_recordsWritten (s : State) (n : Nat) : (s.advance n).recordsWritten = s.recordsWritten := rfl
@[simp] theorem State.advance_ip (s : State) (n : Nat) : (s.advance n).ip = s.ip + n := rfl
@[simp] theorem State.advance_nextCode (s : State) (n : Nat) : (s.advance n).nextCode = s.nextCode := rfl
@[simp] theorem State.advance_dict (s : State) (n : Nat) : (s.advance n).dict = s.dict := rfl
@[simp] theorem State.advance_w (s : State) (n : Nat) : (s.advance n).w = s.w := rfl
@[simp] theorem State.advance_codes (s : State) (n : Nat) : (s.advance n).codes = s.codes := rfl
@[simp] theorem State.advance_table (s : State) (n : Nat) : (s.advance n).table = s.table := rfl
@[simp] theorem State.advance_prev (s : State) (n : Nat) : (s.advance n).prev = s.prev := rfl
@[simp] theorem State.advance_width (s : State) (n : Nat) : (s.advance n).width = s.width := rfl
@[simp] theorem State.advance_fh (s : State) (n : Nat) : (s.advance n).fh = s.fh := rfl
@[simp] theorem State.advance_cmpt (s : State) (n : Nat) : (s.advance n).cmpt = s.cmpt := rfl
@[simp] theorem State.advance_draws (s : State) (n : Nat) : (s.advance n).draws = s.draws := rfl

/-! ### State.raiseError -/

@[simp] theorem State.raiseError_params (s : State) (c : ErrCause) : (s.raiseError c).params = s.params := rfl
@[simp] theorem State.raiseError_cmd (s : State) (c : ErrCause) : (s.raiseError c).cmd = s.cmd := rfl
@[simp] theorem State.raiseError_side (s : State) (c : ErrCause) : (s.raiseError c).side = s.side := rfl
@[simp] theorem State.raiseError_sideWritten (s : State) (c : ErrCause) : (s.raiseError c).sideWritten = s.sideWritten := rfl
@[simp] theorem State.raiseError_inLen (s : State) (c : ErrCause) : (s.raiseError c).inLen = s.inLen := rfl
@[simp] theorem State.raiseError_outLen (s : State) (c : ErrCause) : (s.raiseError c).outLen = 0 := rfl
@[simp] theorem State.raiseError_status (s : State) (c : ErrCause) : (s.raiseError c).status = .error := rfl
@[simp] theorem State.raiseError_errKind (s : State) (c : ErrCause) : (s.raiseError c).errKind = c.kind := rfl
@[simp] theorem State.raiseError_errCause (s : State) (c : ErrCause) : (s.raiseError c).errCause = c := rfl
@[simp] theorem State.raiseError_start (s : State) (c : ErrCause) : (s.raiseError c).start = s.start := rfl
@[simp] theorem State.raiseError_inp (s : State) (c : ErrCause) : (s.raiseError c).inp = s.inp := rfl
@[simp] theorem State.raiseError_out (s : State) (c : ErrCause) : (s.raiseError c).out = s.out := rfl
@[simp] theorem State.raiseError_overlap (s : State) (c : ErrCause) : (s.raiseError c).overlap = s.overlap := rfl
@[simp] theorem State.raiseError_bmpFile (s : State) (c : ErrCause) : (s.raiseError c).bmpFile = s.bmpFile := rfl
@[simp] theorem State.raiseError_bmpInfo (s : State) (c : ErrCause) : (s.raiseError c).bmpInfo = s.bmpInfo := rfl
@[simp] theorem State.raiseError_recordsWritten (s : State) (c : ErrCause) : (s.raiseError c).recordsWritten = s.recordsWritten := rfl
@[simp] theorem State.raiseError_ip (s : State) (c : ErrCause) : (s.raiseError c).ip = s.ip := rfl
@[simp] theorem State.raiseError_nextCode (s : State) (c : ErrCause) : (s.raiseError c).nextCode = s.nextCode := rfl
@[simp] theorem State.raiseError_dict (s : State) (c : ErrCause) : (s.raiseError c).dict = s.dict := rfl
@[simp] theorem State.raiseError_w (s : State) (c : ErrCause) : (s.raiseError c).w = s.w := rfl
@[simp] theorem State.raiseError_codes (s : State) (c : ErrCause) : (s.raiseError c).codes = s.codes := rfl
@[simp] theorem State.raiseError_table (s : State) (c : ErrCause) : (s.raiseError c).table = s.table := rfl
@[simp] theorem State.raiseError_prev (s : State) (c : ErrCause) : (s.raiseError c).prev = s.prev := rfl
@[simp] theorem State.raiseError_width (s : State) (c : ErrCause) : (s.raiseError c).width = s.width := rfl
@[simp] theorem State.raiseError_fh (s : State) (c : ErrCause) : (s.raiseError c).fh = s.fh := rfl
@[simp] theorem State.raiseError_cmpt (s : State) (c : ErrCause) : (s.raiseError c).cmpt = s.cmpt := rfl
@[simp] theorem State.raiseError_draws (s : State) (c : ErrCause) : (s.raiseError c).draws = s.draws := rfl

/-! ### State.finished -/

@[simp] theorem State.finished_params (s : State) : (s.finished).params = s.params := rfl
@[simp] theorem State.finished_cmd (s : State) : (s.finished).cmd = s.cmd := rfl
@[simp] theorem State.finished_side (s : State) : (s.finished).side = s.side := rfl
@[simp] theorem State.finished_sideWritten (s : State) : (s.finished).sideWritten = s.sideWritten := rfl
@[simp] theorem State.finished_inLen (s : State) : (s.finished).inLen = s.inLen := rfl
@[simp] theorem State.finished_outLen (s : State) : (s.finished).outLen = s.outLen := rfl
@[simp] theorem State.finished_status (s : State) : (s.finished).status = .done := rfl
@[simp] theorem State.finished_errKind (s : State) : (s.finished).errKind = s.errKind := rfl
@[simp] theorem State.finished_errCause (s : State) : (s.finished).errCause = s.errCause := rfl
@[simp] theorem State.finished_start (s : State) : (s.finished).start = s.start := rfl
@[simp] theorem State.finished_inp (s : State) : (s.finished).inp = s.inp := rfl
@[simp] theorem State.finished_out (s : State) : (s.finished).out = s.out := rfl
@[simp] theorem State.finished_overlap (s : State) : (s.finished).overlap = s.overlap := rfl
@[simp] theorem State.finished_bmpFile (s : State) : (s.finished).bmpFile = s.bmpFile := rfl
@[simp] theorem State.finished_bmpInfo (s : State) : (s.finished).bmpInfo = s.bmpInfo := rfl
@[simp] theorem State.finished_recordsWritten (s : State) : (s.finished).recordsWritten = s.recordsWritten := rfl
@[simp] theorem State.finished_ip (s : State) : (s.finished).ip = s.ip := rfl
@[simp] theorem State.finished_nextCode (s : State) : (s.finished).nextCode = s.nextCode := rfl
@[simp] theorem State.finished_dict (s : State) : (s.finished).dict = s.dict := rfl
@[simp] theorem State.finished_w (s : State) : (s.finished).w = s.w := rfl
@[simp] theorem State.finished_codes (s : State) : (s.finished).codes = s.codes := rfl
@[simp] theorem State.finished_table (s : State) : (s.finished).table = s.table := rfl
@[simp] theorem State.finished_prev (s : State) : (s.finished).prev = s.prev := rfl
@[simp] theorem State.finished_width (s : State) : (s.finished).width = s.width := rfl
@[simp] theorem State.finished_fh (s : State) : (s.finished).fh = s.fh := rfl
@[simp] theorem State.finished_cmpt (s : State) : (s.finished).cmpt = s.cmpt := rfl
@[simp] theorem State.finished_draws (s : State) : (s.finished).draws = s.draws := rfl

/-! ### State.started -/

@[simp] theorem State.started_params (s : State) (c : BitVec 3) : (s.started c).params = s.params := rfl
@[simp] theorem State.started_cmd (s : State) (c : BitVec 3) : (s.started c).cmd = c := rfl
@[simp] theorem State.started_side (s : State) (c : BitVec 3) : (s.started c).side = s.side := rfl
@[simp] theorem State.started_sideWritten (s : State) (c : BitVec 3) : (s.started c).sideWritten = s.sideWritten := rfl
@[simp] theorem State.started_inLen (s : State) (c : BitVec 3) : (s.started c).inLen = s.inLen := rfl
@[simp] theorem State.started_outLen (s : State) (c : BitVec 3) : (s.started c).outLen = 0 := rfl
@[simp] theorem State.started_status (s : State) (c : BitVec 3) : (s.started c).status = .busy := rfl
@[simp] theorem State.started_errKind (s : State) (c : BitVec 3) : (s.started c).errKind = .none := rfl
@[simp] theorem State.started_errCause (s : State) (c : BitVec 3) : (s.started c).errCause = .none := rfl
@[simp] theorem State.started_start (s : State) (c : BitVec 3) : (s.started c).start = false := rfl
@[simp] theorem State.started_inp (s : State) (c : BitVec 3) : (s.started c).inp = s.inp := rfl
@[simp] theorem State.started_out (s : State) (c : BitVec 3) : (s.started c).out = s.out := rfl
@[simp] theorem State.started_overlap (s : State) (c : BitVec 3) : (s.started c).overlap = s.overlap := rfl
@[simp] theorem State.started_bmpFile (s : State) (c : BitVec 3) : (s.started c).bmpFile = s.bmpFile := rfl
@[simp] theorem State.started_bmpInfo (s : State) (c : BitVec 3) : (s.started c).bmpInfo = s.bmpInfo := rfl
@[simp] theorem State.started_recordsWritten (s : State) (c : BitVec 3) : (s.started c).recordsWritten = s.recordsWritten := rfl
@[simp] theorem State.started_ip (s : State) (c : BitVec 3) : (s.started c).ip = 0 := rfl
@[simp] theorem State.started_nextCode (s : State) (c : BitVec 3) : (s.started c).nextCode = Config.lzwFirstCode := rfl
@[simp] theorem State.started_dict (s : State) (c : BitVec 3) : (s.started c).dict = if c = cmdLzwEnc then seedDict else [] := rfl
@[simp] theorem State.started_w (s : State) (c : BitVec 3) : (s.started c).w = [] := rfl
@[simp] theorem State.started_codes (s : State) (c : BitVec 3) : (s.started c).codes = [] := rfl
@[simp] theorem State.started_table (s : State) (c : BitVec 3) : (s.started c).table = if c = cmdLzwDec then seedTable else [] := rfl
@[simp] theorem State.started_prev (s : State) (c : BitVec 3) : (s.started c).prev = .none := rfl
@[simp] theorem State.started_width (s : State) (c : BitVec 3) : (s.started c).width = if c = cmdLzwDec then s.side.toNat else 0 := rfl
@[simp] theorem State.started_fh (s : State) (c : BitVec 3) : (s.started c).fh = BmpFileHeader.blank := rfl
@[simp] theorem State.started_cmpt (s : State) (c : BitVec 3) : (s.started c).cmpt = s.cmpt := rfl
@[simp] theorem State.started_draws (s : State) (c : BitVec 3) : (s.started c).draws = s.draws := rfl

/-! ### State.callFailed -/

@[simp] theorem State.callFailed_params (s : State) (k : ErrKind) (c : ErrCause) : (s.callFailed k c).params = s.params := rfl
@[simp] theorem State.callFailed_cmd (s : State) (k : ErrKind) (c : ErrCause) : (s.callFailed k c).cmd = s.cmd := rfl
@[simp] theorem State.callFailed_side (s : State) (k : ErrKind) (c : ErrCause) : (s.callFailed k c).side = s.side := rfl
@[simp] theorem State.callFailed_sideWritten (s : State) (k : ErrKind) (c : ErrCause) : (s.callFailed k c).sideWritten = s.sideWritten := rfl
@[simp] theorem State.callFailed_inLen (s : State) (k : ErrKind) (c : ErrCause) : (s.callFailed k c).inLen = s.inLen := rfl
@[simp] theorem State.callFailed_outLen (s : State) (k : ErrKind) (c : ErrCause) : (s.callFailed k c).outLen = s.outLen := rfl
@[simp] theorem State.callFailed_status (s : State) (k : ErrKind) (c : ErrCause) : (s.callFailed k c).status = s.status := rfl
@[simp] theorem State.callFailed_errKind (s : State) (k : ErrKind) (c : ErrCause) : (s.callFailed k c).errKind = s.errKind := rfl
@[simp] theorem State.callFailed_errCause (s : State) (k : ErrKind) (c : ErrCause) : (s.callFailed k c).errCause = s.errCause := rfl
@[simp] theorem State.callFailed_start (s : State) (k : ErrKind) (c : ErrCause) : (s.callFailed k c).start = s.start := rfl
@[simp] theorem State.callFailed_inp (s : State) (k : ErrKind) (c : ErrCause) : (s.callFailed k c).inp = s.inp := rfl
@[simp] theorem State.callFailed_out (s : State) (k : ErrKind) (c : ErrCause) : (s.callFailed k c).out = s.out := rfl
@[simp] theorem State.callFailed_overlap (s : State) (k : ErrKind) (c : ErrCause) : (s.callFailed k c).overlap = s.overlap := rfl
@[simp] theorem State.callFailed_bmpFile (s : State) (k : ErrKind) (c : ErrCause) : (s.callFailed k c).bmpFile = s.bmpFile := rfl
@[simp] theorem State.callFailed_bmpInfo (s : State) (k : ErrKind) (c : ErrCause) : (s.callFailed k c).bmpInfo = s.bmpInfo := rfl
@[simp] theorem State.callFailed_recordsWritten (s : State) (k : ErrKind) (c : ErrCause) : (s.callFailed k c).recordsWritten = s.recordsWritten := rfl
@[simp] theorem State.callFailed_ip (s : State) (k : ErrKind) (c : ErrCause) : (s.callFailed k c).ip = s.ip := rfl
@[simp] theorem State.callFailed_nextCode (s : State) (k : ErrKind) (c : ErrCause) : (s.callFailed k c).nextCode = s.nextCode := rfl
@[simp] theorem State.callFailed_dict (s : State) (k : ErrKind) (c : ErrCause) : (s.callFailed k c).dict = s.dict := rfl
@[simp] theorem State.callFailed_w (s : State) (k : ErrKind) (c : ErrCause) : (s.callFailed k c).w = s.w := rfl
@[simp] theorem State.callFailed_codes (s : State) (k : ErrKind) (c : ErrCause) : (s.callFailed k c).codes = s.codes := rfl
@[simp] theorem State.callFailed_table (s : State) (k : ErrKind) (c : ErrCause) : (s.callFailed k c).table = s.table := rfl
@[simp] theorem State.callFailed_prev (s : State) (k : ErrKind) (c : ErrCause) : (s.callFailed k c).prev = s.prev := rfl
@[simp] theorem State.callFailed_width (s : State) (k : ErrKind) (c : ErrCause) : (s.callFailed k c).width = s.width := rfl
@[simp] theorem State.callFailed_fh (s : State) (k : ErrKind) (c : ErrCause) : (s.callFailed k c).fh = s.fh := rfl
@[simp] theorem State.callFailed_cmpt (s : State) (k : ErrKind) (c : ErrCause) : (s.callFailed k c).cmpt = { s.cmpt with phase := .idle, result := .failed k c } := rfl
@[simp] theorem State.callFailed_draws (s : State) (k : ErrKind) (c : ErrCause) : (s.callFailed k c).draws = s.draws := rfl

/-! ### State.starting -/

@[simp] theorem State.starting_params (s : State) : (s.starting).params = s.params := rfl
@[simp] theorem State.starting_cmd (s : State) : (s.starting).cmd = s.cmd := rfl
@[simp] theorem State.starting_side (s : State) : (s.starting).side = s.side := rfl
@[simp] theorem State.starting_sideWritten (s : State) : (s.starting).sideWritten = s.sideWritten := rfl
@[simp] theorem State.starting_inLen (s : State) : (s.starting).inLen = s.inLen := rfl
@[simp] theorem State.starting_outLen (s : State) : (s.starting).outLen = 0 := rfl
@[simp] theorem State.starting_status (s : State) : (s.starting).status = .starting := rfl
@[simp] theorem State.starting_errKind (s : State) : (s.starting).errKind = .none := rfl
@[simp] theorem State.starting_errCause (s : State) : (s.starting).errCause = .none := rfl
@[simp] theorem State.starting_start (s : State) : (s.starting).start = true := rfl
@[simp] theorem State.starting_inp (s : State) : (s.starting).inp = s.inp := rfl
@[simp] theorem State.starting_out (s : State) : (s.starting).out = s.out := rfl
@[simp] theorem State.starting_overlap (s : State) : (s.starting).overlap = s.overlap := rfl
@[simp] theorem State.starting_bmpFile (s : State) : (s.starting).bmpFile = s.bmpFile := rfl
@[simp] theorem State.starting_bmpInfo (s : State) : (s.starting).bmpInfo = s.bmpInfo := rfl
@[simp] theorem State.starting_recordsWritten (s : State) : (s.starting).recordsWritten = s.recordsWritten := rfl
@[simp] theorem State.starting_ip (s : State) : (s.starting).ip = s.ip := rfl
@[simp] theorem State.starting_nextCode (s : State) : (s.starting).nextCode = s.nextCode := rfl
@[simp] theorem State.starting_dict (s : State) : (s.starting).dict = s.dict := rfl
@[simp] theorem State.starting_w (s : State) : (s.starting).w = s.w := rfl
@[simp] theorem State.starting_codes (s : State) : (s.starting).codes = s.codes := rfl
@[simp] theorem State.starting_table (s : State) : (s.starting).table = s.table := rfl
@[simp] theorem State.starting_prev (s : State) : (s.starting).prev = s.prev := rfl
@[simp] theorem State.starting_width (s : State) : (s.starting).width = s.width := rfl
@[simp] theorem State.starting_fh (s : State) : (s.starting).fh = s.fh := rfl
@[simp] theorem State.starting_cmpt (s : State) : (s.starting).cmpt = s.cmpt := rfl
@[simp] theorem State.starting_draws (s : State) : (s.starting).draws = s.draws := rfl

/-! ### State.codecStarted -/

@[simp] theorem State.codecStarted_params (s : State) (c : BitVec 3) (bs : Bytes) : (s.codecStarted c bs).params = s.params := rfl
@[simp] theorem State.codecStarted_cmd (s : State) (c : BitVec 3) (bs : Bytes) : (s.codecStarted c bs).cmd = c := rfl
@[simp] theorem State.codecStarted_side (s : State) (c : BitVec 3) (bs : Bytes) : (s.codecStarted c bs).side = s.side := rfl
@[simp] theorem State.codecStarted_sideWritten (s : State) (c : BitVec 3) (bs : Bytes) : (s.codecStarted c bs).sideWritten = s.sideWritten := rfl
@[simp] theorem State.codecStarted_inLen (s : State) (c : BitVec 3) (bs : Bytes) : (s.codecStarted c bs).inLen = bs.length := rfl
@[simp] theorem State.codecStarted_outLen (s : State) (c : BitVec 3) (bs : Bytes) : (s.codecStarted c bs).outLen = 0 := rfl
@[simp] theorem State.codecStarted_status (s : State) (c : BitVec 3) (bs : Bytes) : (s.codecStarted c bs).status = .starting := rfl
@[simp] theorem State.codecStarted_errKind (s : State) (c : BitVec 3) (bs : Bytes) : (s.codecStarted c bs).errKind = .none := rfl
@[simp] theorem State.codecStarted_errCause (s : State) (c : BitVec 3) (bs : Bytes) : (s.codecStarted c bs).errCause = .none := rfl
@[simp] theorem State.codecStarted_start (s : State) (c : BitVec 3) (bs : Bytes) : (s.codecStarted c bs).start = true := rfl
@[simp] theorem State.codecStarted_inp (s : State) (c : BitVec 3) (bs : Bytes) : (s.codecStarted c bs).inp = s.inp.writeBytes 0 bs := rfl
@[simp] theorem State.codecStarted_out (s : State) (c : BitVec 3) (bs : Bytes) : (s.codecStarted c bs).out = s.out := rfl
@[simp] theorem State.codecStarted_overlap (s : State) (c : BitVec 3) (bs : Bytes) : (s.codecStarted c bs).overlap = s.overlap := rfl
@[simp] theorem State.codecStarted_bmpFile (s : State) (c : BitVec 3) (bs : Bytes) : (s.codecStarted c bs).bmpFile = s.bmpFile := rfl
@[simp] theorem State.codecStarted_bmpInfo (s : State) (c : BitVec 3) (bs : Bytes) : (s.codecStarted c bs).bmpInfo = s.bmpInfo := rfl
@[simp] theorem State.codecStarted_recordsWritten (s : State) (c : BitVec 3) (bs : Bytes) : (s.codecStarted c bs).recordsWritten = s.recordsWritten := rfl
@[simp] theorem State.codecStarted_ip (s : State) (c : BitVec 3) (bs : Bytes) : (s.codecStarted c bs).ip = s.ip := rfl
@[simp] theorem State.codecStarted_nextCode (s : State) (c : BitVec 3) (bs : Bytes) : (s.codecStarted c bs).nextCode = s.nextCode := rfl
@[simp] theorem State.codecStarted_dict (s : State) (c : BitVec 3) (bs : Bytes) : (s.codecStarted c bs).dict = s.dict := rfl
@[simp] theorem State.codecStarted_w (s : State) (c : BitVec 3) (bs : Bytes) : (s.codecStarted c bs).w = s.w := rfl
@[simp] theorem State.codecStarted_codes (s : State) (c : BitVec 3) (bs : Bytes) : (s.codecStarted c bs).codes = s.codes := rfl
@[simp] theorem State.codecStarted_table (s : State) (c : BitVec 3) (bs : Bytes) : (s.codecStarted c bs).table = s.table := rfl
@[simp] theorem State.codecStarted_prev (s : State) (c : BitVec 3) (bs : Bytes) : (s.codecStarted c bs).prev = s.prev := rfl
@[simp] theorem State.codecStarted_width (s : State) (c : BitVec 3) (bs : Bytes) : (s.codecStarted c bs).width = s.width := rfl
@[simp] theorem State.codecStarted_fh (s : State) (c : BitVec 3) (bs : Bytes) : (s.codecStarted c bs).fh = s.fh := rfl
@[simp] theorem State.codecStarted_cmpt (s : State) (c : BitVec 3) (bs : Bytes) : (s.codecStarted c bs).cmpt = s.cmpt := rfl
@[simp] theorem State.codecStarted_draws (s : State) (c : BitVec 3) (bs : Bytes) : (s.codecStarted c bs).draws = s.draws := rfl

/-! ### lzwHit -/

@[simp] theorem lzwHit_params (s : State) (k : Byte) : (lzwHit k s).params = s.params := rfl
@[simp] theorem lzwHit_cmd (s : State) (k : Byte) : (lzwHit k s).cmd = s.cmd := rfl
@[simp] theorem lzwHit_side (s : State) (k : Byte) : (lzwHit k s).side = s.side := rfl
@[simp] theorem lzwHit_sideWritten (s : State) (k : Byte) : (lzwHit k s).sideWritten = s.sideWritten := rfl
@[simp] theorem lzwHit_inLen (s : State) (k : Byte) : (lzwHit k s).inLen = s.inLen := rfl
@[simp] theorem lzwHit_outLen (s : State) (k : Byte) : (lzwHit k s).outLen = s.outLen := rfl
@[simp] theorem lzwHit_status (s : State) (k : Byte) : (lzwHit k s).status = s.status := rfl
@[simp] theorem lzwHit_errKind (s : State) (k : Byte) : (lzwHit k s).errKind = s.errKind := rfl
@[simp] theorem lzwHit_errCause (s : State) (k : Byte) : (lzwHit k s).errCause = s.errCause := rfl
@[simp] theorem lzwHit_start (s : State) (k : Byte) : (lzwHit k s).start = s.start := rfl
@[simp] theorem lzwHit_inp (s : State) (k : Byte) : (lzwHit k s).inp = s.inp := rfl
@[simp] theorem lzwHit_out (s : State) (k : Byte) : (lzwHit k s).out = s.out := rfl
@[simp] theorem lzwHit_overlap (s : State) (k : Byte) : (lzwHit k s).overlap = s.overlap := rfl
@[simp] theorem lzwHit_bmpFile (s : State) (k : Byte) : (lzwHit k s).bmpFile = s.bmpFile := rfl
@[simp] theorem lzwHit_bmpInfo (s : State) (k : Byte) : (lzwHit k s).bmpInfo = s.bmpInfo := rfl
@[simp] theorem lzwHit_recordsWritten (s : State) (k : Byte) : (lzwHit k s).recordsWritten = s.recordsWritten := rfl
@[simp] theorem lzwHit_ip (s : State) (k : Byte) : (lzwHit k s).ip = s.ip + 1 := rfl
@[simp] theorem lzwHit_nextCode (s : State) (k : Byte) : (lzwHit k s).nextCode = s.nextCode := rfl
@[simp] theorem lzwHit_dict (s : State) (k : Byte) : (lzwHit k s).dict = s.dict := rfl
@[simp] theorem lzwHit_w (s : State) (k : Byte) : (lzwHit k s).w = s.w ++ [k] := rfl
@[simp] theorem lzwHit_codes (s : State) (k : Byte) : (lzwHit k s).codes = s.codes := rfl
@[simp] theorem lzwHit_table (s : State) (k : Byte) : (lzwHit k s).table = s.table := rfl
@[simp] theorem lzwHit_prev (s : State) (k : Byte) : (lzwHit k s).prev = s.prev := rfl
@[simp] theorem lzwHit_width (s : State) (k : Byte) : (lzwHit k s).width = s.width := rfl
@[simp] theorem lzwHit_fh (s : State) (k : Byte) : (lzwHit k s).fh = s.fh := rfl
@[simp] theorem lzwHit_cmpt (s : State) (k : Byte) : (lzwHit k s).cmpt = s.cmpt := rfl
@[simp] theorem lzwHit_draws (s : State) (k : Byte) : (lzwHit k s).draws = s.draws := rfl

/-! ### lzwMiss -/

@[simp] theorem lzwMiss_params (s : State) (k : Byte) (code : Nat) : (lzwMiss k code s).params = s.params := rfl
@[simp] theorem lzwMiss_cmd (s : State) (k : Byte) (code : Nat) : (lzwMiss k code s).cmd = s.cmd := rfl
@[simp] theorem lzwMiss_side (s : State) (k : Byte) (code : Nat) : (lzwMiss k code s).side = s.side := rfl
@[simp] theorem lzwMiss_sideWritten (s : State) (k : Byte) (code : Nat) : (lzwMiss k code s).sideWritten = s.sideWritten := rfl
@[simp] theorem lzwMiss_inLen (s : State) (k : Byte) (code : Nat) : (lzwMiss k code s).inLen = s.inLen := rfl
@[simp] theorem lzwMiss_outLen (s : State) (k : Byte) (code : Nat) : (lzwMiss k code s).outLen = s.outLen := rfl
@[simp] theorem lzwMiss_status (s : State) (k : Byte) (code : Nat) : (lzwMiss k code s).status = s.status := rfl
@[simp] theorem lzwMiss_errKind (s : State) (k : Byte) (code : Nat) : (lzwMiss k code s).errKind = s.errKind := rfl
@[simp] theorem lzwMiss_errCause (s : State) (k : Byte) (code : Nat) : (lzwMiss k code s).errCause = s.errCause := rfl
@[simp] theorem lzwMiss_start (s : State) (k : Byte) (code : Nat) : (lzwMiss k code s).start = s.start := rfl
@[simp] theorem lzwMiss_inp (s : State) (k : Byte) (code : Nat) : (lzwMiss k code s).inp = s.inp := rfl
@[simp] theorem lzwMiss_out (s : State) (k : Byte) (code : Nat) : (lzwMiss k code s).out = s.out := rfl
@[simp] theorem lzwMiss_overlap (s : State) (k : Byte) (code : Nat) : (lzwMiss k code s).overlap = s.overlap := rfl
@[simp] theorem lzwMiss_bmpFile (s : State) (k : Byte) (code : Nat) : (lzwMiss k code s).bmpFile = s.bmpFile := rfl
@[simp] theorem lzwMiss_bmpInfo (s : State) (k : Byte) (code : Nat) : (lzwMiss k code s).bmpInfo = s.bmpInfo := rfl
@[simp] theorem lzwMiss_recordsWritten (s : State) (k : Byte) (code : Nat) : (lzwMiss k code s).recordsWritten = s.recordsWritten := rfl
@[simp] theorem lzwMiss_ip (s : State) (k : Byte) (code : Nat) : (lzwMiss k code s).ip = s.ip + 1 := rfl
@[simp] theorem lzwMiss_nextCode (s : State) (k : Byte) (code : Nat) : (lzwMiss k code s).nextCode = s.nextCode + 1 := rfl
@[simp] theorem lzwMiss_dict (s : State) (k : Byte) (code : Nat) : (lzwMiss k code s).dict = (s.w ++ [k], s.nextCode) :: s.dict := rfl
@[simp] theorem lzwMiss_w (s : State) (k : Byte) (code : Nat) : (lzwMiss k code s).w = [k] := rfl
@[simp] theorem lzwMiss_codes (s : State) (k : Byte) (code : Nat) : (lzwMiss k code s).codes = s.codes ++ [code] := rfl
@[simp] theorem lzwMiss_table (s : State) (k : Byte) (code : Nat) : (lzwMiss k code s).table = s.table := rfl
@[simp] theorem lzwMiss_prev (s : State) (k : Byte) (code : Nat) : (lzwMiss k code s).prev = s.prev := rfl
@[simp] theorem lzwMiss_width (s : State) (k : Byte) (code : Nat) : (lzwMiss k code s).width = s.width := rfl
@[simp] theorem lzwMiss_fh (s : State) (k : Byte) (code : Nat) : (lzwMiss k code s).fh = s.fh := rfl
@[simp] theorem lzwMiss_cmpt (s : State) (k : Byte) (code : Nat) : (lzwMiss k code s).cmpt = s.cmpt := rfl
@[simp] theorem lzwMiss_draws (s : State) (k : Byte) (code : Nat) : (lzwMiss k code s).draws = s.draws := rfl

end Sys2Proof.Machine
end

