-- ==== Sys2Proof/Laws/Ops.lean ====
section
/-! SUPPORT. What each shared operation can do, said once: if it answers next, then one of these cases holds. -/

namespace Sys2Proof.Machine

/-! ### Outcomes -/

@[simp] theorem andThen_next (s : State) (f : State → Outcome) : andThen (.next s) f = f s := rfl
@[simp] theorem andThen_fault (r : Fault) (f : State → Outcome) : andThen (.fault r) f = .fault r := rfl
@[simp] theorem andThen_refused (r : Refusal) (f : State → Outcome) : andThen (.refused r) f = .refused r := rfl

theorem andThen_eq_next {o : Outcome} {f : State → Outcome} {t : State} :
    andThen o f = .next t ↔ ∃ s, o = .next s ∧ f s = .next t := by
  cases o <;> simp

theorem andThen_eq_fault {o : Outcome} {f : State → Outcome} {r : Fault} :
    andThen o f = .fault r ↔ o = .fault r ∨ ∃ s, o = .next s ∧ f s = .fault r := by
  cases o <;> simp

@[simp] theorem raise_eq (c : ErrCause) (s : State) : raise c s = .next (s.raiseError c) := rfl

@[simp] theorem failCall_eq (c : ErrCause) (s : State) : failCall c s = .next (s.callFailed c.kind c) := rfl

/-! ### Appends -/

theorem emit_eq_next {bs : Bytes} {s t : State} :
    emit bs s = .next t ↔ outFits s.params (s.outLen + bs.length) = true ∧ t = s.appended bs := by
  unfold emit
  split
  · rename_i h
    exact ⟨fun e => ⟨h, (Host.Outcome.next.inj e).symm⟩, fun e => by rw [e.2]⟩
  · rename_i h
    exact ⟨fun e => (nomatch e), fun e => absurd e.1 h⟩

theorem emit_unbounded {s : State} (h : s.params.outCap = none) (bs : Bytes) : emit bs s = .next (s.appended bs) := by
  simp [emit, outFits, h]

theorem emit_ne_fault (bs : Bytes) (s : State) (r : Fault) : emit bs s ≠ .fault r := by
  unfold emit; split <;> simp

/-- After an append the output is the old output and then the bytes (R11). -/
theorem outputBytes_appended {s : State} {o : Bytes} (h : s.outputBytes = some o) (bs : Bytes) :
    (s.appended bs).outputBytes = some (o ++ bs) := by
  have := Memory.readBytes_append h bs
  simpa [State.outputBytes, State.appended] using this

/-- An append changes no byte of `OUT` outside the appended ones (R67). -/
theorem read_out_appended (s : State) (bs : Bytes) {x : Nat} (h : x < s.outLen ∨ s.outLen + bs.length ≤ x) :
    (s.appended bs).out.read x = s.out.read x := by
  rw [State.appended_out, Memory.read_writeBytes, if_neg (by omega)]

/-- The match copy: where it answers next, `n` bytes were appended and nothing else changed. -/
theorem copyBytes_eq_next {dist n : Nat} {s t : State} (h : copyBytes dist n s = .next t) :
    ∃ bs : Bytes, bs.length = n ∧ t = s.appended bs := by
  induction n generalizing s with
  | zero =>
    refine ⟨[], rfl, ?_⟩
    simp only [copyBytes, Host.Outcome.next.injEq] at h
    simp [State.appended, Memory.writeBytes, h]
  | succ n ih =>
    simp only [copyBytes] at h
    split at h
    · cases h
    · rename_i b hb
      obtain ⟨u, hu, h⟩ := andThen_eq_next.mp h
      obtain ⟨-, rfl⟩ := emit_eq_next.mp hu
      obtain ⟨bs, hl, rfl⟩ := ih h
      refine ⟨b :: bs, by simp [hl], ?_⟩
      simp [State.appended, Memory.writeBytes, Nat.add_assoc, Nat.add_comm 1]

/-! ### Launches -/

theorem launch_eq_next {c : BitVec 3} {s t : State} :
    launch c s = .next t ↔ launchRefusal c s = none ∧ t = s.started c := by
  unfold launch
  cases launchRefusal c s with
  | none => exact ⟨fun e => ⟨rfl, (Host.Outcome.next.inj e).symm⟩, fun e => by rw [e.2]⟩
  | some r => exact ⟨fun e => (nomatch e), fun e => (nomatch e.1)⟩

theorem launch_ne_fault (c : BitVec 3) (s : State) (r : Fault) : launch c s ≠ .fault r := by
  unfold launch; split <;> simp

/-- The premises of R342, as the launch tests them. -/
theorem launchRefusal_eq_none {c : BitVec 3} {s : State} :
    launchRefusal c s = none ↔
      s.inLen ≤ s.params.maxInputLen ∧ s.overlap = false ∧ s.inputBytes ≠ none ∧
        (c = cmdLzwDec → s.sideWritten = true) ∧
        ((c = cmdLzwEnc ∨ c = cmdLzwDec) → dictFits s.params (Config.lzwSeedCount - 1) = true) := by
  unfold launchRefusal
  split
  · rename_i h
    simp only [reduceCtorEq, false_iff, not_and]
    intro h'; omega
  · split
    · simp_all
    · split
      · simp_all
      · split
        · simp_all
        · split <;> simp_all

theorem command_busy {c : BitVec 3} {f : State → Outcome} {s : State} (hb : s.status = .busy) (hc : s.cmd = c) :
    command c f s = f s := by
  simp [command, hb, hc]

theorem command_not_busy {c : BitVec 3} {f : State → Outcome} {s : State} (hb : s.status ≠ .busy) :
    command c f s = launch c s := by
  simp [command, hb]

theorem runs_eq_true {s : State} {c : BitVec 3} : s.runs c = true ↔ s.status = .busy ∧ s.cmd = c := by
  simp [State.runs]

/-! ### Bytes at the cursor -/

theorem withBytes_eq_next {s t : State} {n : Nat} {f : Bytes → Outcome} :
    withBytes s n f = .next t ↔ ∃ bs, s.bytesAtCursor n = some bs ∧ f bs = .next t := by
  unfold withBytes; split <;> simp_all

theorem bytesAtCursor_length {s : State} {n : Nat} {bs : Bytes} (h : s.bytesAtCursor n = some bs) :
    bs.length = min n (s.inLen - s.ip) := Memory.readBytes_length h

/-- With all of `IN[0..IN_LEN)` written and the cursor inside it, the bytes at the cursor are there. -/
theorem bytesAtCursor_isSome {s : State} (h : s.inputBytes.isSome = true) (n : Nat) :
    (s.bytesAtCursor n).isSome = true := by
  refine Memory.readBytes_isSome.mpr fun i hi => ?_
  have := Memory.readBytes_isSome.mp h (s.ip + i) (by omega)
  simpa using this

/-! ### The BMP reads -/

theorem readFileHeader_eq_next {f : BmpFileFields} {s t : State} (h : readFileHeader f s = .next t) :
    t = s.raiseError .bmpShortFileHeader ∨
      (Config.bmpFileHdrLen ≤ s.inLen ∧ t = { s with fh := fileHeaderOf f, ip := Config.bmpFileHdrLen }) := by
  unfold readFileHeader at h
  split at h
  · left; simpa using h.symm
  · right; exact ⟨by omega, by simpa using h.symm⟩

theorem infoCause_eq_none {inLen headerSize : Nat} :
    infoCause inLen headerSize = none ↔ Config.bmpInfoMin ≤ headerSize ∧ Config.bmpFileHdrLen + headerSize ≤ inLen := by
  have h40 : Config.bmpInfoMin = 40 := rfl
  have h14 : Config.bmpFileHdrLen = 14 := rfl
  unfold infoCause infoRest
  by_cases h1 : inLen < 18
  · rw [if_pos h1]
    exact ⟨fun e => (nomatch e), fun e => by omega⟩
  · rw [if_neg h1]
    by_cases h4 : 4 ≤ headerSize
    · rw [if_pos h4]
      by_cases h2 : inLen < 18 + (headerSize - 4)
      · rw [if_pos h2]
        exact ⟨fun e => (nomatch e), fun e => by omega⟩
      · rw [if_neg h2]
        by_cases h3 : headerSize < Config.bmpInfoMin
        · rw [if_pos h3]
          exact ⟨fun e => (nomatch e), fun e => by omega⟩
        · rw [if_neg h3]
          exact ⟨fun _ => ⟨by omega, by omega⟩, fun _ => rfl⟩
    · rw [if_neg h4, if_neg (by omega), if_pos (by omega)]
      exact ⟨fun e => (nomatch e), fun e => by omega⟩

theorem readInfoHeader_eq_next {f : BmpInfoFields} {s t : State} (h : readInfoHeader f s = .next t) :
    (∃ c, infoCause s.inLen f.headerSize.toNat = some c ∧ t = s.raiseError c) ∨
      (infoCause s.inLen f.headerSize.toNat = none ∧
        t = { s with
          bmpFile := s.fh, bmpInfo := infoHeaderOf f, recordsWritten := true
          ip := Config.bmpFileHdrLen + f.headerSize.toNat, status := .done }) := by
  unfold readInfoHeader at h
  split at h
  · left; exact ⟨_, by assumption, by simpa using h.symm⟩
  · right; exact ⟨by assumption, by simpa using h.symm⟩

/-! ### The tokens -/

theorem litToken_eq_next {v : Byte} {s t : State} (h : litToken v s = .next t) :
    (s.inLen < s.ip + 2 ∧ t = s.raiseError .lzTruncated) ∨
      (s.ip + 2 ≤ s.inLen ∧ t = (s.appended [v]).advance 2) := by
  unfold litToken at h
  split at h
  · left; exact ⟨by assumption, by simpa using h.symm⟩
  · right
    obtain ⟨u, hu, h⟩ := andThen_eq_next.mp h
    obtain ⟨-, rfl⟩ := emit_eq_next.mp hu
    exact ⟨by omega, by simpa using h.symm⟩

theorem matchToken_eq_next {d l : Nat} {s t : State} (h : matchToken d l s = .next t) :
    (s.inLen < s.ip + 4 ∧ t = s.raiseError .lzTruncated) ∨
      ((d = 0 ∨ s.outLen < d) ∧ t = s.raiseError .lzBadDistance) ∨
      (s.ip + 4 ≤ s.inLen ∧ 1 ≤ d ∧ d ≤ s.outLen ∧
        ∃ bs : Bytes, bs.length = l ∧ t = (s.appended bs).advance 4) := by
  unfold matchToken at h
  split at h
  · left; exact ⟨by assumption, by simpa using h.symm⟩
  · split at h
    · right; left; exact ⟨by assumption, by simpa using h.symm⟩
    · right; right
      rename_i h1 h2
      obtain ⟨u, hu, h⟩ := andThen_eq_next.mp h
      obtain ⟨bs, hl, rfl⟩ := copyBytes_eq_next hu
      exact ⟨by omega, by omega, by omega, bs, hl, by simpa using h.symm⟩

end Sys2Proof.Machine
end

