-- ==== Sys2Proof/Laws/Container.lean ====
section
/-! SUPPORT. What each operation of the host layer and each move of the host can do, said once. -/

namespace Sys2Proof.Machine

/-- The header read of `CMPT_LOAD` (R282, R283): an error of its own, or the codec started on the payload. -/
theorem loadFromHeader_eq_next {h : CmptFields} {s t : State} (e : loadFromHeader h s = .next t) :
    (h.version.toNat ≠ Config.cmptVersion ∧ t = s.callFailed .unsupported .cmptBadVersion) ∨
      (h.algorithmId.toNat ≠ Config.algDict ∧ h.algorithmId.toNat ≠ Config.algWindow ∧
        t = s.callFailed .unsupported .cmptBadAlgorithm) ∨
      (s.cmpt.file.length < Config.cmptHdrLen + h.payloadLength.toNat ∧
        t = s.callFailed .corruption .cmptTruncated) ∨
      (Config.cmptHdrLen + h.payloadLength.toNat ≤ s.cmpt.file.length ∧
        ((h.algorithmId.toNat = Config.algDict ∧
            t = { s.codecStarted cmdLzwDec (slice s.cmpt.file Config.cmptHdrLen h.payloadLength.toNat) with
              side := h.sideInfo, sideWritten := true, cmpt := loadArgs h s.cmpt }) ∨
          (h.algorithmId.toNat = Config.algWindow ∧
            t = { s.codecStarted cmdLz77Dec (slice s.cmpt.file Config.cmptHdrLen h.payloadLength.toNat) with
              cmpt := loadArgs h s.cmpt }))) := by
  unfold loadFromHeader at e
  split at e
  · exact .inl ⟨by assumption, (Host.Outcome.next.inj e).symm⟩
  · split at e
    · rename_i h2
      exact .inr (.inl ⟨h2.1, h2.2, (Host.Outcome.next.inj e).symm⟩)
    · split at e
      · exact .inr (.inr (.inl ⟨by assumption, (Host.Outcome.next.inj e).symm⟩))
      · refine .inr (.inr (.inr ⟨by omega, ?_⟩))
        simp only at e
        split at e
        · exact .inl ⟨by assumption, (Host.Outcome.next.inj e).symm⟩
        · exact .inr ⟨by omega, (Host.Outcome.next.inj e).symm⟩

/-- The end of `CMPT_LOAD` (R283, R317): it only ends the call. -/
theorem loadFinish_eq_next {s t : State} (e : loadFinish s = .next t) :
    (s.status = .error ∧ t = s.callFailed s.errKind s.errCause) ∨
      (s.status = .done ∧ ∃ pixels, s.outputBytes = some pixels ∧
        ((pixels.length = expectedLength s.cmpt.width s.cmpt.height s.cmpt.bpp ∧
            t = { s with cmpt := { s.cmpt with
              phase := .idle, result := .loaded s.cmpt.width s.cmpt.height s.cmpt.bpp pixels } }) ∨
          (pixels.length ≠ expectedLength s.cmpt.width s.cmpt.height s.cmpt.bpp ∧
            t = s.callFailed .corruption .cmptLengthMismatch))) := by
  unfold loadFinish at e
  split at e
  · exact .inl ⟨by assumption, (Host.Outcome.next.inj e).symm⟩
  · split at e
    · cases e
    · rename_i pixels hp
      refine .inr ⟨by assumption, pixels, hp, ?_⟩
      split at e
      · exact .inl ⟨by assumption, (Host.Outcome.next.inj e).symm⟩
      · exact .inr ⟨by assumption, (Host.Outcome.next.inj e).symm⟩
  · cases e
  · cases e
  · cases e

/-- The start of `CMPT_SAVE` (R273, R274). -/
theorem saveStart_eq_next {s t : State} (e : saveStart s = .next t) :
    (s.cmpt.alg = Config.algDict ∨ s.cmpt.alg = Config.algWindow) ∧ s.cmpt.width < 2 ^ 32 ∧
      s.cmpt.height < 2 ^ 32 ∧ s.cmpt.bpp ≤ 255 ∧
      t = { s.codecStarted (if s.cmpt.alg = Config.algDict then cmdLzwEnc else cmdLz77Enc) s.cmpt.pixels with
        cmpt := { s.cmpt with phase := .saveCodec } } := by
  unfold saveStart at e
  split at e
  · rename_i h
    exact ⟨h.1, h.2.1, h.2.2.1, h.2.2.2, (Host.Outcome.next.inj e).symm⟩
  · cases e

/-- The end of `CMPT_SAVE` (R276, R277): it writes the file and ends the call. -/
theorem writeFile_eq_next {h : CmptFields} {s t : State} (e : writeFile h s = .next t) :
    s.status = .done ∧ ∃ payload, s.outputBytes = some payload ∧
      t = { s with
        draws := s.draws + 1
        cmpt := { s.cmpt with
          phase := .idle, file := encodeCmpt h ++ payload
          result := .saved s.cmpt.pixels.length payload.length (Config.elapsed s.draws) } } := by
  unfold writeFile at e
  split at e
  · split at e
    · cases e
    · exact ⟨by assumption, _, by assumption, (Host.Outcome.next.inj e).symm⟩
  · cases e

/-- `STATUS` reads BUSY (R26). -/
theorem Status.bits_eq_one {x : Status} : x.bits = 1 ↔ x = .busy ∨ x = .starting := by
  cases x <;> simp [Status.bits]

theorem hostMayMove_iff {s : State} :
    s.hostMayMove = true ↔ (s.status ≠ .busy ∧ s.status ≠ .starting) ∧ s.start = false ∧ s.cmpt.phase = .idle := by
  rw [State.hostMayMove, decide_eq_true_iff, Ne, Status.bits_eq_one, not_or]

/-- A move of the host happens outside operations and calls only (R26, D34). -/
theorem hostMove_eq_next {s t u : State} (e : hostMove s t = .next u) :
    (s.status ≠ .busy ∧ s.status ≠ .starting) ∧ s.start = false ∧ s.cmpt.phase = .idle ∧ u = t := by
  unfold hostMove at e
  split at e
  · rename_i h
    obtain ⟨h1, h2, h3⟩ := hostMayMove_iff.mp h
    exact ⟨h1, h2, h3, (Host.Outcome.next.inj e).symm⟩
  · cases e

/-- The host's start (R26, R345): where it answers next, the launch it stands for was not refused and `STATUS` is
BUSY. -/
theorem hostStart_eq_next {s t : State} (e : hostStart s = .next t) :
    s.hostMayMove = true ∧ (∃ u, exec (decodeCommand s.cmd) s = .next u) ∧ t = s.starting := by
  unfold hostStart at e
  split at e
  · obtain ⟨u, hu, e⟩ := andThen_eq_next.mp e
    exact ⟨by assumption, ⟨u, hu⟩, (Host.Outcome.next.inj e).symm⟩
  · cases e

/-- The premises of a launch do not depend on what the start changes. -/
@[simp] theorem launchRefusal_starting (c : BitVec 3) (s : State) :
    launchRefusal c s.starting = launchRefusal c s := rfl

/-- The start taken up at once or by the next step leaves the same state. -/
@[simp] theorem started_starting (c : BitVec 3) (s : State) : s.starting.started c = s.started c := rfl

end Sys2Proof.Machine
end

