-- ==== Sys2Proof/Laws/PerInstr.lean ====
section
/-! SUPPORT. Per-instruction families, one lemma per constructor of `Instr`. -/

namespace Sys2Proof.Laws

/-- The number of bytes of an instruction: the width of its row of spec/opcode_table.json in whole bytes. -/
def rowBytes (i : Instr) : Nat :=
  match i with
  | .bmpParse => 1
  | .lzwEnc => 1
  | .lzwDec => 1
  | .lz77Enc => 1
  | .lz77Dec => 1
  | .cmdReserved0 => 1
  | .cmdReserved6 => 1
  | .cmdReserved7 => 1
  | .lit _ => 2
  | .matchTok _ _ => 4
  | .codeW2 _ => 2
  | .codeW3 _ => 3
  | .codeW4 _ => 4
  | .bmpFileHdr _ => 14
  | .bmpInfoHdr _ => 40
  | .cmptHdr _ => 20

/-- The encoder writes as many bytes as the row has, never more than the fetch of its stream reads. -/
def EncodedLength.Statement (i : Instr) : Prop :=
  (encode i).length = rowBytes i ∧ rowBytes i ≤ (streamOf i).unitBytes

theorem EncodedLength.bmpParse : EncodedLength.Statement .bmpParse := ⟨rfl, by decide⟩
theorem EncodedLength.lzwEnc : EncodedLength.Statement .lzwEnc := ⟨rfl, by decide⟩
theorem EncodedLength.lzwDec : EncodedLength.Statement .lzwDec := ⟨rfl, by decide⟩
theorem EncodedLength.lz77Enc : EncodedLength.Statement .lz77Enc := ⟨rfl, by decide⟩
theorem EncodedLength.lz77Dec : EncodedLength.Statement .lz77Dec := ⟨rfl, by decide⟩
theorem EncodedLength.cmdReserved0 : EncodedLength.Statement .cmdReserved0 := ⟨rfl, by decide⟩
theorem EncodedLength.cmdReserved6 : EncodedLength.Statement .cmdReserved6 := ⟨rfl, by decide⟩
theorem EncodedLength.cmdReserved7 : EncodedLength.Statement .cmdReserved7 := ⟨rfl, by decide⟩
theorem EncodedLength.lit (value : BitVec 8) : EncodedLength.Statement (.lit value) :=
  ⟨rfl, (by decide : 2 ≤ 4)⟩
theorem EncodedLength.matchTok (distance : BitVec 16) (length : BitVec 8) :
    EncodedLength.Statement (.matchTok distance length) := ⟨rfl, Nat.le_refl 4⟩
theorem EncodedLength.codeW2 (code : BitVec 16) : EncodedLength.Statement (.codeW2 code) := ⟨rfl, Nat.le_refl 2⟩
theorem EncodedLength.codeW3 (code : BitVec 24) : EncodedLength.Statement (.codeW3 code) := ⟨rfl, Nat.le_refl 3⟩
theorem EncodedLength.codeW4 (code : BitVec 32) : EncodedLength.Statement (.codeW4 code) := ⟨rfl, Nat.le_refl 4⟩
theorem EncodedLength.bmpFileHdr (fields : BmpFileFields) : EncodedLength.Statement (.bmpFileHdr fields) :=
  ⟨rfl, Nat.le_refl 14⟩
theorem EncodedLength.bmpInfoHdr (fields : BmpInfoFields) : EncodedLength.Statement (.bmpInfoHdr fields) :=
  ⟨rfl, Nat.le_refl 40⟩
theorem EncodedLength.cmptHdr (fields : CmptFields) : EncodedLength.Statement (.cmptHdr fields) :=
  ⟨rfl, Nat.le_refl 20⟩

end Sys2Proof.Laws
end

