-- ==== Sys2Proof/Laws/Tables.lean ====
section
/-! SUPPORT. The dictionary codec's tables: lookups over new bindings, the seeds, and what a code word can do. -/

namespace Sys2Proof.Machine

@[simp] theorem dictLookup_nil (p : Phrase) : dictLookup [] p = none := rfl

theorem dictLookup_cons (q p : Phrase) (c : Nat) (d : List (Phrase × Nat)) :
    dictLookup ((q, c) :: d) p = if q = p then some c else dictLookup d p := rfl

@[simp] theorem tableLookup_nil (c : Nat) : tableLookup [] c = none := rfl

theorem tableLookup_cons (n c : Nat) (p : Phrase) (t : List (Nat × Phrase)) :
    tableLookup ((n, p) :: t) c = if n = c then some p else tableLookup t c := rfl

theorem dictLookup_isSome {d : List (Phrase × Nat)} {p : Phrase} :
    (dictLookup d p).isSome = true ↔ p ∈ d.map Prod.fst := by
  induction d with
  | nil => simp
  | cons x d ih =>
    obtain ⟨q, c⟩ := x
    by_cases h : q = p
    · simp [dictLookup_cons, h]
    · have h' : ¬ p = q := fun e => h e.symm
      simp [dictLookup_cons, h, h', ih]

theorem tableLookup_isSome {t : List (Nat × Phrase)} {c : Nat} :
    (tableLookup t c).isSome = true ↔ c ∈ t.map Prod.fst := by
  induction t with
  | nil => simp
  | cons x t ih =>
    obtain ⟨n, p⟩ := x
    by_cases h : n = c
    · simp [tableLookup_cons, h]
    · have h' : ¬ c = n := fun e => h e.symm
      simp [tableLookup_cons, h, h', ih]

theorem tableLookup_map (f : Nat → Phrase) (l : List Nat) (c : Nat) :
    tableLookup (l.map fun v => (v, f v)) c = if c ∈ l then some (f c) else none := by
  induction l with
  | nil => simp
  | cons x l ih =>
    by_cases h : x = c
    · simp [tableLookup_cons, h]
    · have h' : ¬ c = x := fun e => h e.symm
      simp [tableLookup_cons, h, h', ih]

/-- The seeds of `TABLE` (R188). -/
theorem tableLookup_seed (c : Nat) :
    tableLookup seedTable c = if c < Config.lzwSeedCount then some [BitVec.ofNat 8 c] else none := by
  rw [seedTable, tableLookup_map]; simp

theorem dictLookup_map (f : Nat → Phrase) (l : List Nat) (hf : ∀ a ∈ l, ∀ b ∈ l, f a = f b → a = b) {c : Nat}
    (hc : c ∈ l) : dictLookup (l.map fun v => (f v, v)) (f c) = some c := by
  induction l with
  | nil => simp at hc
  | cons x l ih =>
    by_cases h : f x = f c
    · have := hf x (by simp) c hc h
      simp [dictLookup_cons, this]
    · have hc' : c ∈ l := by
        rcases List.mem_cons.mp hc with e | e
        · exact absurd (by rw [e]) h
        · exact e
      rw [List.map_cons, dictLookup_cons, if_neg h]
      exact ih (fun a ha b hb => hf a (by simp [ha]) b (by simp [hb])) hc'

/-- The seeds of `DICT` (R171). -/
theorem dictLookup_seed (b : Byte) : dictLookup seedDict [b] = some b.toNat := by
  have hb := b.isLt
  have h := dictLookup_map (fun v => [BitVec.ofNat 8 v]) (List.range Config.lzwSeedCount)
    (fun x hx y hy e => by
      have hx' := List.mem_range.mp hx
      have hy' := List.mem_range.mp hy
      have := congrArg BitVec.toNat (List.head_eq_of_cons_eq e)
      simp only [BitVec.toNat_ofNat, Config.lzwSeedCount] at *
      omega) (c := b.toNat) (List.mem_range.mpr (by simpa [Config.lzwSeedCount] using hb))
  simpa [seedDict] using h

/-- The keys of the seeds are the single bytes. -/
theorem mem_seedDict_keys {p : Phrase} : p ∈ seedDict.map Prod.fst ↔ ∃ b : Byte, p = [b] := by
  constructor
  · intro h
    obtain ⟨x, hx, rfl⟩ := List.mem_map.mp h
    obtain ⟨v, -, rfl⟩ := List.mem_map.mp hx
    exact ⟨_, rfl⟩
  · rintro ⟨b, rfl⟩
    exact dictLookup_isSome.mp (by simp [dictLookup_seed])

theorem emitEntry_eq_next {entry : Phrase} {s t : State} (h : emitEntry entry s = .next t) :
    t = { s.appended entry with prev := some entry, ip := s.ip + s.width } := by
  obtain ⟨u, hu, h⟩ := andThen_eq_next.mp h
  obtain ⟨-, rfl⟩ := emit_eq_next.mp hu
  simpa using h.symm

theorem bindEntry_eq_next {p entry : Phrase} {s t : State} (h : bindEntry p entry s = .next t) :
    ∃ b bs, entry = b :: bs ∧
      t = { s with table := (s.nextCode, p ++ [b]) :: s.table, nextCode := s.nextCode + 1 } := by
  unfold bindEntry at h
  split at h
  · cases h
  · split at h
    · exact ⟨_, _, rfl, by simpa using h.symm⟩
    · cases h

/-- What a code word can do (R188 to R192): an error, the first word, or a word after the first with the binding of
R192. -/
theorem codeWord_eq_next {code : Nat} {s t : State} (h : codeWord code s = .next t) :
    t = s.raiseError .lzwBadCode ∨
      (s.prev = none ∧ code < Config.lzwSeedCount ∧ ∃ entry, tableLookup s.table code = some entry ∧
        t = { s.appended entry with prev := some entry, ip := s.ip + s.width }) ∨
      (∃ p b bs, s.prev = some p ∧
        ((code < s.nextCode ∧ tableLookup s.table code = some (b :: bs)) ∨
          (code = s.nextCode ∧ ∃ k ps, p = k :: ps ∧ b :: bs = p ++ [k])) ∧
        t = { s.appended (b :: bs) with
          table := (s.nextCode, p ++ [b]) :: s.table, nextCode := s.nextCode + 1
          prev := some (b :: bs), ip := s.ip + s.width }) := by
  unfold codeWord at h
  split at h
  · rename_i hp
    split at h
    · split at h
      · cases h
      · rename_i hlt _ entry he
        exact .inr (.inl ⟨hp, hlt, entry, he, emitEntry_eq_next h⟩)
    · left; simpa using h.symm
  · rename_i p hp
    split at h
    · split at h
      · cases h
      · rename_i hlt _ entry he
        obtain ⟨u, hu, h⟩ := andThen_eq_next.mp h
        obtain ⟨b, bs, rfl, rfl⟩ := bindEntry_eq_next hu
        exact .inr (.inr ⟨p, b, bs, hp, .inl ⟨hlt, he⟩, emitEntry_eq_next h⟩)
    · split at h
      · rename_i h1 h2
        split at h
        · cases h
        · rename_i k ps
          obtain ⟨u, hu, h⟩ := andThen_eq_next.mp h
          obtain ⟨b, bs, hb, rfl⟩ := bindEntry_eq_next hu
          have h := emitEntry_eq_next h
          rw [hb] at h
          exact .inr (.inr ⟨k :: ps, b, bs, hp, .inr ⟨h2, k, ps, rfl, hb.symm⟩, h⟩)
      · left; simpa using h.symm

end Sys2Proof.Machine
end

