-- ==== Sys2Proof/Laws/Start.lean ====
section
/-! SUPPORT. The working state at the start of an operation is sound, and what the launch of `LZW_DEC` can do. -/

namespace Sys2Proof.Machine

/-- `DICT` at the start of `LZW_ENC` meets the invariants of R29. -/
theorem dictSound_started (s : State) : DictSound (s.started cmdLzwEnc) where
  prefixBound := .inl rfl
  prefixEmpty := by simp
  keysDistinct := by
    simp only [State.started_dict, if_true, seedDict, List.map_map]
    refine List.Nodup.map_on (fun x hx y hy e => ?_) List.nodup_range
    have hx' := List.mem_range.mp hx
    have hy' := List.mem_range.mp hy
    have h := congrArg BitVec.toNat (List.head_eq_of_cons_eq e)
    simp only [BitVec.toNat_ofNat, Config.lzwSeedCount] at *
    omega
  keysNonempty := by
    intro p hp
    rw [State.started_dict, if_pos rfl] at hp
    obtain ⟨b, rfl⟩ := mem_seedDict_keys.mp hp
    simp
  codesExact := by
    simp only [State.started_dict, if_true, seedDict, List.map_map, State.started_nextCode]
    have : (Prod.snd ∘ fun v => (([BitVec.ofNat 8 v] : Phrase), v)) = id := rfl
    rw [this, List.map_id]
    exact List.Perm.refl _
  seedsBound := by
    intro b
    rw [State.started_dict, if_pos rfl]
    exact dictLookup_seed b
  prefixClosed := by
    intro p q hp hq hpre
    rw [State.started_dict, if_pos rfl] at hp ⊢
    obtain ⟨b, rfl⟩ := mem_seedDict_keys.mp (dictLookup_isSome.mp hp)
    have hl := hpre.length_le
    have : q = [b] := by
      refine hpre.eq_of_length_le ?_
      cases q with
      | nil => exact absurd rfl hq
      | cons a q => simp
    rw [this]; exact hp
  nextCodeCounts := rfl

/-- `TABLE` at the start of `LZW_DEC`, once its two checks have passed, meets R32. -/
theorem tableSound_started {s : State} (hw : s.side.toNat ∈ Config.lzwWidths) (hl : s.inLen % s.side.toNat = 0) :
    TableSound (s.started cmdLzwDec) where
  widthLegal := by simpa using hw
  wholeWords := by simpa using hl
  boundBelow := by
    intro c
    rw [State.started_table, if_pos rfl, tableLookup_seed]
    simp only [State.started_nextCode, Config.lzwSeedCount, Config.lzwFirstCode]
    by_cases h : c < 256 <;> simp [h]
  seedsBound := by
    intro b
    have hb : b.toNat < Config.lzwSeedCount := b.isLt
    rw [State.started_table, if_pos rfl, tableLookup_seed, if_pos hb]
    simp
  phrasesNonempty := by
    intro c p h
    rw [State.started_table, if_pos rfl, tableLookup_seed] at h
    split at h
    · cases h; simp
    · cases h
  prevNonempty := by simp
  nextCodeLags := by simp
  prevNone := by simp

theorem lzwDecChecks_eq_next {s t : State} (h : lzwDecChecks s = .next t) :
    (s.width ∈ Config.lzwWidths ∧ s.inLen % s.width = 0 ∧ t = s) ∨
      (s.width ∈ Config.lzwWidths ∧ s.inLen % s.width ≠ 0 ∧ t = s.raiseError .lzwBadLength) ∨
      (s.width ∉ Config.lzwWidths ∧ s.params.widthPolicy = .fault ∧ t = s.raiseError .lzwBadWidth) := by
  unfold lzwDecChecks at h
  split at h
  · split at h
    · exact .inl ⟨by assumption, by assumption, (Host.Outcome.next.inj h).symm⟩
    · exact .inr (.inl ⟨by assumption, by assumption, (Host.Outcome.next.inj h).symm⟩)
  · split at h
    · exact .inr (.inr ⟨by assumption, by assumption, (Host.Outcome.next.inj h).symm⟩)
    · cases h

/-- The end of `LZW_ENC`: where it answers next, the stream was appended, `SIDE` is its width and the outcome is Ok. -/
theorem lzwFinish_eq_next {codes : List Nat} {s t : State} (h : lzwFinish codes s = .next t) :
    maxCode codes < Config.lzwCodeBound ∧
      t = { s.appended (serialise (codeWidth codes) codes) with
        codes := codes, side := BitVec.ofNat 8 (codeWidth codes), sideWritten := true, status := .done } := by
  unfold lzwFinish at h
  split at h
  · cases h
  · obtain ⟨u, hu, h⟩ := andThen_eq_next.mp h
    obtain ⟨-, rfl⟩ := emit_eq_next.mp hu
    exact ⟨by omega, (Host.Outcome.next.inj h).symm⟩

end Sys2Proof.Machine
end

