-- ==== Sys2Proof/Laws/Steps.lean ====
section
/-! SUPPORT. What one micro-step of each operation can do, said once, and what a step is in each situation. -/

namespace Sys2Proof.Machine

/-- A micro-step of `LZW_ENC` (R174 to R179): a hit, a miss, or the end. -/
theorem lzwEncStep_eq_next {s t : State} (h : lzwEncStep s = .next t) :
    (s.ip < s.inLen ∧ ∃ k, s.inp.read s.ip = some k ∧
      ((dictLookup s.dict (s.w ++ [k])).isSome = true ∧ t = lzwHit k s ∨
        dictLookup s.dict (s.w ++ [k]) = none ∧ ∃ code, dictLookup s.dict s.w = some code ∧ t = lzwMiss k code s)) ∨
      (s.inLen ≤ s.ip ∧ s.w = [] ∧ lzwFinish s.codes s = .next t) ∨
      (s.inLen ≤ s.ip ∧ s.w ≠ [] ∧ ∃ code, dictLookup s.dict s.w = some code ∧
        lzwFinish (s.codes ++ [code]) s = .next t) := by
  unfold lzwEncStep at h
  split at h
  · rename_i hip
    left
    refine ⟨hip, ?_⟩
    split at h
    · cases h
    · rename_i k hk
      refine ⟨k, hk, ?_⟩
      split at h
      · rename_i c hc
        exact .inl ⟨by rw [hc]; rfl, (Host.Outcome.next.inj h).symm⟩
      · rename_i hc
        split at h
        · cases h
        · rename_i code hcode
          split at h
          · exact .inr ⟨hc, code, hcode, (Host.Outcome.next.inj h).symm⟩
          · cases h
  · rename_i hip
    split at h
    · exact .inr (.inl ⟨by omega, by assumption, h⟩)
    · split at h
      · cases h
      · exact .inr (.inr ⟨by omega, by assumption, _, by assumption, h⟩)

/-- A micro-step of `LZW_DEC` (R187, R193): a cut-off word, a code word, or the end. -/
theorem lzwDecStep_eq_next {s t : State} (h : lzwDecStep s = .next t) :
    (s.ip < s.inLen ∧ ∃ bs, s.bytesAtCursor s.width = some bs ∧
      (bs.length < s.width ∧ t = s.raiseError .lzwBadLength ∨
        s.width ≤ bs.length ∧ codeWord (beNat bs) s = .next t)) ∨
      (s.inLen ≤ s.ip ∧ t = s.finished) := by
  unfold lzwDecStep at h
  split at h
  · obtain ⟨bs, hbs, h⟩ := withBytes_eq_next.mp h
    refine .inl ⟨by assumption, bs, hbs, ?_⟩
    split at h
    · exact .inl ⟨by assumption, (Host.Outcome.next.inj h).symm⟩
    · exact .inr ⟨by omega, h⟩
  · exact .inr ⟨by omega, (Host.Outcome.next.inj h).symm⟩

/-- A micro-step of `LZ77_ENC` (R226 to R228, R236): one token, or the end. -/
theorem lz77EncStep_eq_next {s t : State} (h : lz77EncStep s = .next t) :
    (s.ip < s.inLen ∧ ∃ input, s.inputBytes = some input ∧
      t = (s.appended (tokenAt s.params.tieBreak input s.ip).1).advance (tokenAt s.params.tieBreak input s.ip).2) ∨
      (s.inLen ≤ s.ip ∧ t = { s with side := 0, sideWritten := true, status := .done }) := by
  unfold lz77EncStep at h
  split at h
  · split at h
    · cases h
    · rename_i input hi
      obtain ⟨u, hu, h⟩ := andThen_eq_next.mp h
      obtain ⟨-, rfl⟩ := emit_eq_next.mp hu
      exact .inl ⟨by assumption, input, hi, (Host.Outcome.next.inj h).symm⟩
  · exact .inr ⟨by omega, (Host.Outcome.next.inj h).symm⟩

/-- A micro-step of `LZ77_DEC` (R242, R247, R249, R250): a token, an illegal or cut-off one, or the end. -/
theorem lz77DecStep_eq_next {s t : State} (h : lz77DecStep s = .next t) :
    (s.ip < s.inLen ∧ ∃ bs, s.bytesAtCursor 4 = some bs ∧
      ((∃ v rest, readToken bs = .lit v rest ∧ litToken v s = .next t) ∨
        (∃ d l rest, readToken bs = .mtch d l rest ∧ matchToken d.toNat l.toNat s = .next t) ∨
        (readToken bs = .badFlag ∧ t = s.raiseError .lzBadFlag) ∨
        (readToken bs = .truncated ∧ t = s.raiseError .lzTruncated))) ∨
      (s.inLen ≤ s.ip ∧ t = s.finished) := by
  unfold lz77DecStep at h
  split at h
  · obtain ⟨bs, hbs, h⟩ := withBytes_eq_next.mp h
    refine .inl ⟨by assumption, bs, hbs, ?_⟩
    split at h
    · exact .inl ⟨_, _, by assumption, h⟩
    · exact .inr (.inl ⟨_, _, _, by assumption, h⟩)
    · exact .inr (.inr (.inl ⟨by assumption, (Host.Outcome.next.inj h).symm⟩))
    · exact .inr (.inr (.inr ⟨by assumption, (Host.Outcome.next.inj h).symm⟩))
  · exact .inr ⟨by omega, (Host.Outcome.next.inj h).symm⟩

@[simp] theorem runFetched_instr (i : Instr) (s : State) : runFetched (.instr i) s = exec i s := rfl
@[simp] theorem runFetched_act (o : Outcome) (s : State) : runFetched (.act o) s = o := rfl

/-- What a step is (R6, R20): a running operation first, then a start, then the host layer. -/
theorem step_busy {s : State} (h : s.status = .busy) :
    step s = runFetched (fetchRunning s) s := by
  simp [step, fetch, h]

theorem step_start {s : State} (h : s.status ≠ .busy) (hs : s.start = true) :
    step s = exec (decodeCommand s.cmd) s := by
  simp [step, fetch, h, hs]

theorem step_host {s : State} (h : s.status ≠ .busy) (hs : s.start = false) :
    step s = runFetched (fetchHostLayer s) s := by
  simp [step, fetch, h, hs]

end Sys2Proof.Machine
end

