-- ==== Sys2Proof/WellFormed.lean ====
section
/-! DEFINITION. The static legality of an instruction: the constraints its row of spec/opcode_table.json puts on its
fields. An ill-formed unit is still decoded, and its meaning takes the error spec/30_encoding.md R104 names for it
(log 14). -/

namespace Sys2Proof

/-- A `MATCH` distance is never 0 ("legal 1..OUT_LEN"; R104). -/
def distanceOk (distance : BitVec 16) : Bool := decide (1 ≤ distance.toNat)

/-- An info header announces at least 40 bytes (R99, R146). -/
def headerSizeOk (headerSize : BitVec 32) : Bool := decide (Config.bmpInfoMin ≤ headerSize.toNat)

/-- The container version is 1 (R100, R282). -/
def versionOk (version : BitVec 8) : Bool := decide (version.toNat = Config.cmptVersion)

/-- The container algorithm id is 1 or 2 (R100, R282). -/
def algorithmOk (algorithmId : BitVec 8) : Bool :=
  decide (algorithmId.toNat = Config.algDict ∨ algorithmId.toNat = Config.algWindow)

/-- The check of one instruction. The reserved commands are not operations (R23). -/
def wellFormed (i : Instr) : Bool :=
  match i with
  | .bmpParse => true
  | .lzwEnc => true
  | .lzwDec => true
  | .lz77Enc => true
  | .lz77Dec => true
  | .cmdReserved0 => false
  | .cmdReserved6 => false
  | .cmdReserved7 => false
  | .lit _ => true
  | .matchTok d _ => distanceOk d
  | .codeW2 _ => true
  | .codeW3 _ => true
  | .codeW4 _ => true
  | .bmpFileHdr _ => true
  | .bmpInfoHdr h => headerSizeOk h.headerSize
  | .cmptHdr h => versionOk h.version && algorithmOk h.algorithmId

end Sys2Proof
end

