-- ==== Sys2Proof/Tests/Slice0.lean ====
section
/-! SUPPORT. Tests: ill-formed terms are refused, words written out from the spec's encodings decode, one-step tests
with results from the spec's corner cases and worked examples, and a witness for the hypotheses of each statement. -/

namespace Sys2Proof.Tests

open Sys2Proof.Machine

/-! ### WellFormed refuses an ill-formed term of each check -/

theorem test_wf_distance_zero : wellFormed (.matchTok 0 3) = false := by decide
theorem test_wf_distance_one : wellFormed (.matchTok 1 0) = true := by decide
theorem test_wf_header_size_39 : wellFormed (.bmpInfoHdr ⟨39, 0, 0, 0, 0, 0, 0, 0, 0, 0, 0⟩) = false := by decide
theorem test_wf_header_size_40 : wellFormed (.bmpInfoHdr ⟨40, 0, 0, 0, 0, 0, 0, 0, 0, 0, 0⟩) = true := by decide
theorem test_wf_version_2 : wellFormed (.cmptHdr ⟨2, 1, 2, 24, 0, 0, 0⟩) = false := by decide
theorem test_wf_algorithm_99 : wellFormed (.cmptHdr ⟨1, 99, 2, 24, 0, 0, 0⟩) = false := by decide
theorem test_wf_cmpt : wellFormed (.cmptHdr ⟨1, 2, 7, 24, 0, 0, 0⟩) = true := by decide
theorem test_wf_reserved :
    (wellFormed .cmdReserved0, wellFormed .cmdReserved6, wellFormed .cmdReserved7) = (false, false, false) := by decide

/-! ### Decoding, each constructor from a word written out from its encoding -/

/-- R91's table. -/
theorem test_decode_commands :
    (List.range 8).map (decodeTableWord 8) =
      [some .cmdReserved0, some .bmpParse, some .lzwEnc, some .lzwDec, some .lz77Enc, some .lz77Dec,
       some .cmdReserved6, some .cmdReserved7] := by decide
/-- A byte above 7 is no command (R91). -/
theorem test_decode_command_8 : decodeTableWord 8 8 = none := by decide
/-- R95: `00000000 01000001`. -/
theorem test_decode_lit : decodeTableWord 16 0b00000000_01000001 = some (.lit 0x41) := by decide
/-- R96: `00000001 00010011 10001000 00000011`, distance 5000, length 3 (R254). -/
theorem test_decode_match : decodeTableWord 32 0b00000001_00010011_10001000_00000011 = some (.matchTok 5000 3) := by
  decide
/-- R93 at W = 2: `01 02` is 258; the flag byte 2 of `02 41` is a code word's byte, but no token's (R254). -/
theorem test_decode_code_w2 : decode (.codes 2) [0x01, 0x02] = .unit (.codeW2 258) [] := by decide
theorem test_decode_bad_flag : decode .tokens [0x02, 0x41] = .reject .badFlag := by decide
/-- R93 at W = 3: `00 00 41` is 65 (R198). -/
theorem test_decode_code_w3 : decodeTableWord 24 0x000041 = some (.codeW3 65) := by decide
/-- R97: `00 41 00 42` is one code at W = 4. -/
theorem test_decode_code_w4 : decode (.codes 4) [0x00, 0x41, 0x00, 0x42] = .unit (.codeW4 0x00410042) [] := by decide

/-- The 54 bytes of R155. -/
def bmp54 : Bytes :=
  [0x42, 0x4D, 0x46, 0, 0, 0, 0, 0, 0, 0, 0x36, 0, 0, 0] ++
    ([0x28, 0, 0, 0, 2, 0, 0, 0, 0xFE, 0xFF, 0xFF, 0xFF, 1, 0, 0x18, 0, 0, 0, 0, 0] ++
      [0x10, 0, 0, 0, 0x13, 0x0B, 0, 0, 0x13, 0x0B, 0, 0, 0, 0, 0, 0, 0, 0, 0, 0])

/-- R98 and R155. -/
theorem test_decode_bmp_file : decode .bmpFile bmp54 = .unit (.bmpFileHdr ⟨70, 0, 0, 54⟩) (bmp54.drop 14) := by decide
/-- R99 and R155: the height's pattern is `FE FF FF FF`. -/
theorem test_decode_bmp_info :
    decode .bmpInfo (bmp54.drop 14) =
      .unit (.bmpInfoHdr ⟨40, 2, 0xFFFFFFFE, 1, 24, 0, 16, 2835, 2835, 0, 0⟩) [] := by decide
/-- R100 and R289. -/
theorem test_decode_cmpt :
    decodeTableWord 160 0x434D5054_01010218_02000000_02000000_0E000000 = some (.cmptHdr ⟨1, 1, 2, 24, 2, 2, 14⟩) := by
  decide

/-! ### Small states -/

/-- What a next state satisfies; false of a fault or a refusal. -/
def nextIs (o : Outcome) (p : State → Bool) : Bool :=
  match o with
  | .next s => p s
  | .fault _ => false
  | .refused _ => false

theorem nextIs_exists {o : Outcome} {p : State → Bool} (h : nextIs o p = true) : ∃ t, o = .next t ∧ p t = true := by
  cases o with
  | next s => exact ⟨s, rfl, h⟩
  | fault r => exact absurd h (by simp [nextIs])
  | refused r => exact absurd h (by simp [nextIs])

/-- The host has loaded `input` and written `CMD` (R345). -/
def loadedIdle (c : BitVec 3) (input : Bytes) : State :=
  { State.reset with cmd := c, inp := Memory.writeBytes [] 0 input, inLen := input.length }

/-- The same with the start made. -/
def loaded (c : BitVec 3) (input : Bytes) : State := (loadedIdle c input).starting

/-- The same with `SIDE` written. -/
def loadedSide (v : BitVec 8) (input : Bytes) : State := { loaded cmdLzwDec input with side := v, sideWritten := true }

/-- The operation `c` at its start. -/
def running (c : BitVec 3) (input : Bytes) : State := (loaded c input).started c

/-- `LZW_DEC` at its start, its checks passed. -/
def runningDec (v : BitVec 8) (input : Bytes) : State := (loadedSide v input).started cmdLzwDec

/-- Bytes already in `OUT`, the cursor at `ip`. -/
def wrote (s : State) (out : Bytes) (ip : Nat) : State := { s.appended out with ip := ip }

/-- Ten bytes 0x41. -/
def tenA : Bytes := List.replicate 10 0x41

/-- `LZW_ENC` of R183 after the first byte. -/
def encAfterFirst : State := { running cmdLzwEnc tenA with ip := 1, w := [0x41] }

/-- `LZW_ENC` of R183 at the end of its input. -/
def encAtEnd : State :=
  { running cmdLzwEnc tenA with
    ip := 10, w := [0x41, 0x41, 0x41, 0x41], codes := [65, 256, 257], nextCode := 259
    dict := [([0x41, 0x41, 0x41, 0x41], 258), ([0x41, 0x41, 0x41], 257), ([0x41, 0x41], 256)] ++ seedDict }

/-- `LZW_DEC` after its first code word, 65. -/
def decAfterFirst (v : BitVec 8) (input : Bytes) : State :=
  { wrote (runningDec v input) [0x41] v.toNat with prev := some [0x41] }

/-- "ABCABCABC" (R234). -/
def abc : Bytes := [0x41, 0x42, 0x43, 0x41, 0x42, 0x43, 0x41, 0x42, 0x43]

/-- The twelve pixel bytes of R289. -/
def pixels12 : Bytes := [0xFF, 0, 0, 0xFF, 0, 0, 0xFF, 0, 0, 0xFF, 0, 0]

/-- The file of R289 with algorithm 2. -/
def file2 : Bytes :=
  [0x43, 0x4D, 0x50, 0x54, 1, 2, 0, 0x18, 2, 0, 0, 0, 2, 0, 0, 0, 0x0A, 0, 0, 0] ++
    [0, 0xFF, 0, 0, 0, 0, 1, 0, 3, 9]

/-- A call of `CMPT_LOAD` on a file. -/
def loading (file : Bytes) : State :=
  { State.reset with cmpt := { Cmpt.reset with phase := .loadHeader, file := file } }

/-- A call of `CMPT_SAVE` on the pixels of R289, its codec's run over. -/
def saved : State :=
  { wrote State.reset [0, 0xFF, 0, 0, 0, 0, 1, 0, 3, 9] 12 with
    status := .done, side := 0, sideWritten := true
    cmpt := { Cmpt.reset with phase := .saveCodec, width := 2, height := 2, bpp := 24, pixels := pixels12, alg := 2 } }

/-- A call of `CMPT_LOAD` whose codec has decoded the pixels of R289. -/
def decoded (w : Nat) : State :=
  { wrote State.reset pixels12 10 with
    status := .done, cmpt := { Cmpt.reset with phase := .loadCodec, width := w, height := 2, bpp := 24, alg := 2 } }

/-! ### One step of each instruction -/

theorem test_bmp_parse_starts : nextIs (step (loaded cmdBmpParse bmp54)) (fun t => t.status = .busy ∧ t.ip = 0) := by
  decide
/-- R154: 13 bytes that begin `42 4D`. -/
theorem test_bmp_parse_short :
    nextIs (step (running cmdBmpParse (bmp54.take 13))) (fun t => t.errCause = .bmpShortFileHeader ∧ t.errKind.bits = 1) := by
  decide
/-- R154: 14 bytes that begin `42 4E`. -/
theorem test_bmp_bad_signature :
    nextIs (step (running cmdBmpParse ([0x42, 0x4E] ++ List.replicate 12 0))) (fun t => t.errCause.bits = 2) := by decide
/-- R155. -/
theorem test_bmp_file_hdr :
    nextIs (step (running cmdBmpParse bmp54)) (fun t => t.ip = 14 ∧ t.fh = ⟨(0x42, 0x4D), 70, 0, 0, 54⟩) := by decide
/-- R155: height -2. -/
theorem test_bmp_info_hdr :
    nextIs (step { running cmdBmpParse bmp54 with ip := 14 })
      (fun t => t.status = .done ∧ t.bmpInfo = ⟨40, 2, -2, 1, 24, 0, 16, 2835, 2835, 0, 0⟩) := by decide
/-- R154: 18 bytes, `header_size` 4; nothing is left to read and the size test fails. -/
theorem test_bmp_info_too_small :
    nextIs (step { running cmdBmpParse (bmp54.take 14 ++ [4, 0, 0, 0]) with ip := 14 })
      (fun t => t.errCause = .bmpInfoTooSmall ∧ t.errKind.bits = 2) := by decide
/-- R183, byte 1: emit 65, bind `AA` to 256. -/
theorem test_lzw_enc_miss :
    nextIs (step encAfterFirst)
      (fun t => t.codes = [65] ∧ t.nextCode = 257 ∧ dictLookup t.dict [0x41, 0x41] = some 256) := by decide +kernel
/-- R183, the end. -/
theorem test_lzw_enc_end :
    nextIs (step encAtEnd)
      (fun t => t.side = 2 ∧ t.outputBytes = some [0x00, 0x41, 0x01, 0x00, 0x01, 0x01, 0x01, 0x02]) := by decide +kernel
/-- R198: `SIDE` = 5. -/
theorem test_lzw_dec_bad_width : nextIs (step (loadedSide 5 [0x00])) (fun t => t.errCause.bits = 7) := by decide +kernel
/-- R198: `00 41 00` at `SIDE` = 2. -/
theorem test_lzw_dec_bad_length :
    nextIs (step (loadedSide 2 [0x00, 0x41, 0x00])) (fun t => t.errCause.bits = 8) := by decide +kernel
/-- R199, word 1: code 256 is `next_code`; `AA` is appended and bound. -/
theorem test_code_w2_kwkwk :
    nextIs (step (decAfterFirst 2 [0x00, 0x41, 0x01, 0x00]))
      (fun t => t.outputBytes = some [0x41, 0x41, 0x41] ∧ tableLookup t.table 256 = some [0x41, 0x41]) := by
  decide +kernel
/-- R198: 257 above `next_code` = 256. -/
theorem test_code_w2_illegal :
    nextIs (step (decAfterFirst 2 [0x00, 0x41, 0x01, 0x01])) (fun t => t.errCause.bits = 9 ∧ t.outLen = 0) := by
  decide +kernel
/-- R198: `00 00 41` at W = 3. -/
theorem test_code_w3 :
    nextIs (step (runningDec 3 [0x00, 0x00, 0x41])) (fun t => t.outputBytes = some [0x41] ∧ t.ip = 3) := by
  decide +kernel
/-- R198: the second word of `00 00 00 41 00 00 01 00` at W = 4. -/
theorem test_code_w4 :
    nextIs (step (decAfterFirst 4 [0, 0, 0, 0x41, 0, 0, 1, 0])) (fun t => t.outputBytes = some [0x41, 0x41, 0x41]) := by
  decide +kernel
/-- R234 at `pos` = 3: `MATCH 3, 6`. -/
theorem test_lz77_enc_match :
    nextIs (step { running cmdLz77Enc abc with ip := 3 })
      (fun t => t.outputBytes = some [0x01, 0x00, 0x03, 0x06] ∧ t.ip = 9) := by decide +kernel
/-- R232: at `pos` = 1 of `41 41 41` the run has length 2. -/
theorem test_lz77_enc_lit :
    nextIs (step { running cmdLz77Enc [0x41, 0x41, 0x41] with ip := 1 })
      (fun t => t.outputBytes = some [0x00, 0x41] ∧ t.ip = 2) := by decide +kernel
/-- R254: `00 41 FF`. -/
theorem test_lz77_dec_bad_flag :
    nextIs (step (wrote (running cmdLz77Dec [0x00, 0x41, 0xFF]) [0x41] 2)) (fun t => t.errCause.bits = 10) := by decide
/-- R254: `00 41` ends Ok. -/
theorem test_lz77_dec_end :
    nextIs (step (wrote (running cmdLz77Dec [0x00, 0x41]) [0x41] 2))
      (fun t => t.status.bits = 2 ∧ t.outputBytes = some [0x41]) := by decide
/-- R243. -/
theorem test_lit : nextIs (step (running cmdLz77Dec [0x00, 0x41])) (fun t => t.outputBytes = some [0x41] ∧ t.ip = 2) := by
  decide
/-- R254: `00 41 00`. -/
theorem test_lit_truncated :
    nextIs (step (wrote (running cmdLz77Dec [0x00, 0x41, 0x00]) [0x41] 2)) (fun t => t.errCause.bits = 11) := by decide
/-- R255: distance 3, length 6 overlaps itself. -/
theorem test_match_overlap :
    nextIs (step (wrote (running cmdLz77Dec ([0, 0x41, 0, 0x42, 0, 0x43] ++ [1, 0, 3, 6])) [0x41, 0x42, 0x43] 6))
      (fun t => t.outputBytes = some abc ∧ t.ip = 10) := by decide
/-- R254: `00 41 01 00 02 00`, the distance is checked though the length is 0. -/
theorem test_match_bad_distance :
    nextIs (step (wrote (running cmdLz77Dec [0, 0x41, 1, 0, 2, 0]) [0x41] 2)) (fun t => t.errCause.bits = 12) := by decide
theorem test_reserved : step (loaded 6 []) = .refused .reservedCommand := rfl
/-- R286: version 2 and algorithm 99. -/
theorem test_cmpt_hdr_version :
    nextIs (step (loading ([0x43, 0x4D, 0x50, 0x54, 2, 99] ++ List.replicate 14 0)))
      (fun t => t.cmpt.result = .failed .unsupported .cmptBadVersion) := by decide
/-- R289: the file of algorithm 2. -/
theorem test_cmpt_hdr_saves : nextIs (step saved) (fun t => t.cmpt.file = file2 ∧ t.cmpt.phase = .idle) := by decide
/-- R288: the width of a 2 by 2 image changed to 3. -/
theorem test_cmpt_length_mismatch :
    nextIs (step (decoded 3)) (fun t => t.cmpt.result = .failed .corruption .cmptLengthMismatch) := by decide

/-! ### The host's start -/

/-- R26: the host's start sets BUSY at once, also where an earlier result stood. -/
theorem test_host_start_busy :
    nextIs (hostStart { loadedIdle cmdLz77Dec [0x00, 0x41] with status := .error, errKind := .corruption })
      (fun t => hostReadStatus t = 1 ∧ t.errKind = .none ∧ t.start) := by decide
/-- R23: a start with a reserved command does not happen. -/
theorem test_host_start_reserved : hostStart (loadedIdle 6 []) = .refused .reservedCommand := rfl

/-! ### `withFetchWord` places an instruction where the next step runs it -/

theorem test_fetch_word_lit :
    nextIs (step (State.reset.withFetchWord 16 0x0041)) (fun t => t.outputBytes = some [0x41]) := by decide
theorem test_fetch_word_code :
    nextIs (step (State.reset.withFetchWord 24 0x000041)) (fun t => t.outputBytes = some [0x41]) := by decide +kernel
theorem test_fetch_word_lzw_dec :
    nextIs (step (State.reset.withFetchWord 8 3)) (fun t => t.status = .busy ∧ t.cmd = cmdLzwDec) := by decide +kernel

end Sys2Proof.Tests
end

