-- ==== Sys2Proof/Tests/Witnesses.lean ====
section
/-! SUPPORT. For each statement with hypotheses, a concrete state and operands that meet all of them together; for a
statement of several clauses, one for each clause, at the boundary of its range. -/

namespace Sys2Proof.Tests

open Sys2Proof.Machine

/-! ### Encodings and step -/

theorem witness_EncodeInvertsDecode : decode .tokens [0, 0x41, 9] = .unit (.lit 0x41) [9] := by decide

/-- Flags 0, 1 and 2, with and without room. -/
theorem witness_TokenRejects :
    decode .tokens [2] = .reject .badFlag ∧ decode .tokens [0] = .reject .truncated ∧
      decode .tokens [1, 0, 3] = .reject .truncated ∧ decode .tokens [1, 0, 3, 6] = .unit (.matchTok 3 6) [] := by
  decide

theorem witness_StepRunsFetchedInstruction :
    (let s := running cmdLz77Dec [0, 0x41]
     s.status = .busy ∧ s.streamAtCursor = some .tokens ∧ s.bytesAtCursor 4 = some [0, 0x41] ∧
      decode .tokens [0, 0x41] = .unit (.lit 0x41) []) ∧
    (let s := running cmdLz77Dec [2]
     s.status = .busy ∧ s.streamAtCursor = some .tokens ∧ s.bytesAtCursor 4 = some [2] ∧
      decode .tokens [2] = .reject .badFlag) ∧
    (let s := running cmdLz77Enc abc
     s.status = .busy ∧ s.streamAtCursor = none) ∧
    (let s := loaded cmdLz77Enc abc
     s.status ≠ .busy ∧ s.start = true) ∧
    (let s := loading file2
     s.status ≠ .busy ∧ s.start = false ∧ s.cmpt.phase = .loadHeader ∧
      decode .container s.cmpt.file = .unit (.cmptHdr ⟨1, 2, 0, 24, 2, 2, 10⟩) (file2.drop 20)) ∧
    (saved.status ≠ .busy ∧ saved.start = false ∧ saved.cmpt.phase = .saveCodec ∧ saved.outLen < 2 ^ 32) := by
  decide

theorem witness_ResetAndIdle :
    State.reset.status ≠ .busy ∧ State.reset.start = false ∧ State.reset.cmpt.phase = .idle := by decide

/-! ### Starts -/

theorem witness_LaunchCompletes :
    (loaded cmdBmpParse bmp54).status ≠ .busy ∧ LaunchPremises cmdBmpParse (loaded cmdBmpParse bmp54) :=
  ⟨by decide, ⟨by decide, by decide, by decide, by decide, by decide⟩⟩

theorem witness_LaunchCompletes_enc :
    (loaded cmdLzwEnc tenA).status ≠ .busy ∧ LaunchPremises cmdLzwEnc (loaded cmdLzwEnc tenA) ∧
      dictFits (loaded cmdLzwEnc tenA).params 255 = true :=
  ⟨by decide, ⟨by decide, by decide, by decide, by decide, by decide⟩, by decide⟩

theorem witness_LaunchCompletes_lz77 :
    LaunchPremises cmdLz77Enc (loaded cmdLz77Enc []) ∧ LaunchPremises cmdLz77Dec (loaded cmdLz77Dec [0, 0x41]) :=
  ⟨⟨by decide, by decide, by decide, by decide, by decide⟩, ⟨by decide, by decide, by decide, by decide, by decide⟩⟩

theorem loadedSide_premises (v : BitVec 8) : LaunchPremises cmdLzwDec (loadedSide v [0, 0x41, 0, 0x42]) :=
  ⟨by decide, by exact Nat.le_of_ble_eq_true rfl, by
    show ∀ a, a < 4 → ((Memory.writeBytes [] 0 [0, 0x41, 0, 0x42]).read a).isSome = true
    decide, rfl, fun _ => rfl⟩

/-- Widths 2 (whole words), 3 (not whole), 5 under each policy. -/
theorem witness_LaunchLzwDec :
    LaunchPremises cmdLzwDec (loadedSide 2 [0, 0x41, 0, 0x42]) ∧ (loadedSide 2 [0, 0x41, 0, 0x42]).inLen % 2 = 0 ∧
    LaunchPremises cmdLzwDec (loadedSide 3 [0, 0x41, 0, 0x42]) ∧ (loadedSide 3 [0, 0x41, 0, 0x42]).inLen % 3 ≠ 0 ∧
    LaunchPremises cmdLzwDec (loadedSide 5 [0, 0x41, 0, 0x42]) ∧
      (loadedSide 5 [0, 0x41, 0, 0x42]).params.widthPolicy = .fault ∧
      (loadedSide 2 [0, 0x41, 0, 0x42]).status ≠ .busy ∧
      dictFits (loadedSide 2 [0, 0x41, 0, 0x42]).params 255 = true :=
  ⟨loadedSide_premises 2, by decide, loadedSide_premises 3, by decide, loadedSide_premises 5, by decide, by decide,
    by decide⟩

/-- The policy `refuse`. -/
def refusing : State :=
  { loadedSide 1 [0, 0x41] with params := { Config.Params.default with widthPolicy := .refuse } }

theorem witness_LaunchLzwDec_refuse :
    refusing.status ≠ .busy ∧ LaunchPremises cmdLzwDec refusing ∧ dictFits refusing.params 255 = true ∧
      ¬ (refusing.side = 2 ∨ refusing.side = 3 ∨ refusing.side = 4) ∧ refusing.params.widthPolicy = .refuse :=
  ⟨by decide, ⟨by decide, by decide, by decide, by decide, by decide⟩, by decide, by decide, by decide⟩

theorem witness_RefusedExactlyWhenNotWellFormed :
    (running cmdLz77Dec [0, 0x41]).status = .busy ∧
    ((loaded cmdLz77Dec [0, 0x41]).params.dictCap = none ∧
      (loaded cmdLz77Dec [0, 0x41]).params.widthPolicy = .fault ∧ (loaded cmdLz77Dec [0, 0x41]).status ≠ .busy ∧
      LaunchPremises cmdLz77Dec (loaded cmdLz77Dec [0, 0x41])) ∧
    ((loaded 7 []).status ≠ .busy ∧ ¬ LaunchPremises 7 (loaded 7 [])) :=
  ⟨by decide, ⟨by decide, by decide, by decide, ⟨by decide, by decide, by decide, by decide, by decide⟩⟩, by decide,
    fun h => absurd h.command (by decide)⟩

theorem witness_OperationStartState :
    (loadedSide 2 [0, 0x41]).status ≠ .busy ∧
      ∃ t, exec (decodeCommand cmdLzwDec) (loadedSide 2 [0, 0x41]) = .next t ∧ t.status = .busy := by
  refine ⟨by decide, ?_⟩
  obtain ⟨t, ht, hp⟩ := nextIs_exists
    (o := exec (decodeCommand cmdLzwDec) (loadedSide 2 [0, 0x41])) (p := fun t => t.status = .busy) (by decide +kernel)
  exact ⟨t, ht, by simpa using hp⟩

theorem witness_ReservedCommandsAreRefused :
    (loaded 0 []).status ≠ .busy ∧ (loaded 0 []).start = true ∧ (loaded 0 []).cmd = 0 ∧ (loaded 7 []).cmd = 7 := by decide

/-! ### Errors -/

/-- A state and the state after its step. -/
theorem step_exists {s : State} {p : State → Bool} (h : nextIs (step s) p = true) : ∃ t, step s = .next t ∧ p t = true :=
  nextIs_exists h

/-- A running operation and a start that end in an error. -/
theorem witness_ErrorEntry :
    ((running cmdLz77Dec [2]).status = .busy ∧ ∃ t, step (running cmdLz77Dec [2]) = .next t ∧ t.status = .error) ∧
    ((loadedSide 5 [0]).start = true ∧ ∃ t, step (loadedSide 5 [0]) = .next t ∧ t.status = .error) := by
  obtain ⟨t, ht, hp⟩ := step_exists (s := running cmdLz77Dec [2]) (p := fun t => t.status = .error) (by decide)
  obtain ⟨u, hu, hq⟩ := step_exists (s := loadedSide 5 [0]) (p := fun t => t.status = .error) (by decide +kernel)
  exact ⟨⟨by decide, t, ht, by simpa using hp⟩, by decide, u, hu, by simpa using hq⟩

theorem witness_ErrorCausesByOperation :
    (running cmdBmpParse [0x42]).status = .busy ∧
      ∃ t, step (running cmdBmpParse [0x42]) = .next t ∧ t.status = .error := by
  obtain ⟨t, ht, hp⟩ := step_exists (s := running cmdBmpParse [0x42]) (p := fun t => t.status = .error) (by decide)
  exact ⟨by decide, t, ht, by simpa using hp⟩

theorem witness_ErrorFlagsSoundKept :
    errorFlagsSound (running cmdLz77Dec [2]) ∧ ∃ t, step (running cmdLz77Dec [2]) = .next t ∧ t.status = .error := by
  obtain ⟨t, ht, hp⟩ := step_exists (s := running cmdLz77Dec [2]) (p := fun t => t.status = .error) (by decide)
  exact ⟨by decide, t, ht, by simpa using hp⟩

/-! ### BMP_PARSE -/

/-- Inputs of exactly 14 and of 13 bytes. -/
theorem witness_BmpFileHeaderRecord :
    (let s := running cmdBmpParse (bmp54.take 14)
     s.status = .busy ∧ s.cmd = cmdBmpParse ∧ s.ip = 0 ∧ 14 ≤ s.inLen) ∧
    (let s := running cmdBmpParse (bmp54.take 13)
     s.status = .busy ∧ s.cmd = cmdBmpParse ∧ s.ip = 0 ∧ s.inLen < 14) := by decide

/-- The second read at 17 bytes; `header_size` 12 at 25 and at 26 bytes; 40 at 54 bytes (R154). -/
theorem witness_BmpInfoHeaderRecord :
    (let s := { running cmdBmpParse (bmp54.take 17) with ip := 14 }
     s.status = .busy ∧ s.cmd = cmdBmpParse ∧ s.ip = 14 ∧ s.inLen < 18) ∧
    (let s := { running cmdBmpParse (bmp54.take 25) with ip := 14 }
     s.ip = 14 ∧ 18 ≤ s.inLen ∧ s.inLen < 18 + ((12 : BitVec 32).toNat - 4)) ∧
    (let s := { running cmdBmpParse (bmp54.take 26) with ip := 14 }
     s.ip = 14 ∧ 18 ≤ s.inLen ∧ 18 + ((12 : BitVec 32).toNat - 4) ≤ s.inLen ∧ (12 : BitVec 32).toNat < 40) ∧
    (let s := { running cmdBmpParse bmp54 with ip := 14 }
     s.status = .busy ∧ s.cmd = cmdBmpParse ∧ s.ip = 14 ∧ 14 + (40 : BitVec 32).toNat ≤ s.inLen) := by decide

theorem witness_BmpFirstRead :
    (let s := running cmdBmpParse (bmp54.take 13)
     s.status = .busy ∧ s.cmd = cmdBmpParse ∧ s.ip = 0 ∧ s.inputBytes = some (bmp54.take 13) ∧ s.inLen < 14) ∧
    (let s := running cmdBmpParse (List.replicate 14 0x42)
     s.inputBytes = some (List.replicate 14 0x42) ∧ 14 ≤ s.inLen ∧
      slice (List.replicate 14 0x42) 0 2 ≠ [0x42, 0x4D]) ∧
    (let s := running cmdBmpParse (bmp54.take 14)
     s.inputBytes = some (bmp54.take 14) ∧ 14 ≤ s.inLen ∧ slice (bmp54.take 14) 0 2 = [0x42, 0x4D]) := by decide

theorem witness_BmpSecondAndThirdRead :
    (let s := { running cmdBmpParse (bmp54.take 17) with ip := 14 }
     s.status = .busy ∧ s.cmd = cmdBmpParse ∧ s.ip = 14 ∧ s.inputBytes = some (bmp54.take 17) ∧ s.inLen < 18) ∧
    (let s := { running cmdBmpParse (bmp54.take 53) with ip := 14 }
     s.inputBytes = some (bmp54.take 53) ∧ 18 ≤ s.inLen ∧ s.inLen < 18 + ((leU32 (bmp54.take 53) 14).toNat - 4)) ∧
    (let s := { running cmdBmpParse (bmp54.take 14 ++ [3, 0, 0, 0]) with ip := 14 }
     s.inputBytes = some (bmp54.take 14 ++ [3, 0, 0, 0]) ∧ 18 ≤ s.inLen ∧
      18 + ((leU32 (bmp54.take 14 ++ [3, 0, 0, 0]) 14).toNat - 4) ≤ s.inLen ∧
      (leU32 (bmp54.take 14 ++ [3, 0, 0, 0]) 14).toNat < 40) ∧
    (let s := { running cmdBmpParse bmp54 with ip := 14 }
     s.inputBytes = some bmp54 ∧ 18 + ((leU32 bmp54 14).toNat - 4) ≤ s.inLen ∧ 40 ≤ (leU32 bmp54 14).toNat) := by
  decide

/-- A start of any operation on a loaded input is ready. -/
theorem ready_loaded {c : BitVec 3} {input : Bytes} (hl : input.length ≤ 2 ^ 32 - 1) (hc : c ≠ cmdLzwDec) :
    Ready c input (loaded c input) where
  notBusy := by simp [loaded]
  hasStart := rfl
  command := rfl
  length := hl
  disjoint := rfl
  loaded := Memory.readBytes_writeBytes [] 0 input
  width := fun h => absurd h hc

theorem ready_loadedSide {v : BitVec 8} {input : Bytes} (hl : input.length ≤ 2 ^ 32 - 1) :
    Ready cmdLzwDec input (loadedSide v input) where
  notBusy := by simp [loadedSide, loaded]
  hasStart := rfl
  command := rfl
  length := hl
  disjoint := rfl
  loaded := Memory.readBytes_writeBytes [] 0 input
  width := fun _ => rfl

/-- Outcome Ok and an error. -/
theorem witness_BmpParseRunsAsTransaction :
    Ready cmdBmpParse bmp54 (loaded cmdBmpParse bmp54) ∧
      Ready cmdBmpParse [0x42] (loaded cmdBmpParse [0x42]) ∧ bmpParseBytes [0x42] = .error .bmpShortFileHeader :=
  ⟨ready_loaded (by decide) (by decide), ready_loaded (by decide) (by decide), by decide⟩

/-! ### The dictionary codec -/

theorem witness_LzwEncHit :
    (let s := { running cmdLzwEnc tenA with ip := 9 }
     s.status = .busy ∧ s.cmd = cmdLzwEnc ∧ s.ip < s.inLen ∧ s.inp.read s.ip = some 0x41 ∧
      (dictLookup s.dict (s.w ++ [0x41])).isSome = true) := by decide +kernel

theorem witness_LzwEncMiss :
    encAfterFirst.status = .busy ∧ encAfterFirst.cmd = cmdLzwEnc ∧ encAfterFirst.ip < encAfterFirst.inLen ∧
      encAfterFirst.inp.read encAfterFirst.ip = some 0x41 ∧
      dictLookup encAfterFirst.dict (encAfterFirst.w ++ [0x41]) = none ∧
      dictLookup encAfterFirst.dict encAfterFirst.w = some 65 ∧
      dictFits encAfterFirst.params encAfterFirst.nextCode = true := by decide +kernel

/-- The end of the empty input, and the flush of R183. -/
theorem witness_LzwEncEnd :
    (let s := running cmdLzwEnc []
     s.status = .busy ∧ s.cmd = cmdLzwEnc ∧ s.inLen ≤ s.ip ∧ s.w = [] ∧ s.codes = [] ∧ s.params.outCap = none) ∧
    (encAtEnd.status = .busy ∧ encAtEnd.cmd = cmdLzwEnc ∧ encAtEnd.inLen ≤ encAtEnd.ip ∧ encAtEnd.w ≠ [] ∧
      dictLookup encAtEnd.dict encAtEnd.w = some 258 ∧ (∀ c ∈ encAtEnd.codes ++ [258], c < 256 ^ 4) ∧
      encAtEnd.params.outCap = none) := by decide +kernel

/-- The largest code at 2^32. -/
theorem witness_LzwCodesFitFourBytes :
    tenA.length ≤ 2 ^ 32 - 1 ∧ 258 ∈ lzwCodes tenA ∧
    (let s := { encAtEnd with codes := [2 ^ 32] }
     s.status = .busy ∧ s.cmd = cmdLzwEnc ∧ s.inLen ≤ s.ip ∧ s.w ≠ [] ∧ dictLookup s.dict s.w = some 258 ∧
      2 ^ 32 ∈ s.codes ++ [258]) := by decide +kernel

theorem witness_LzwCodeListBounds : tenA ≠ [] ∧ (lzwCodes tenA)[3]? = some 258 := by decide +kernel

theorem witness_DictSoundKept :
    ((loaded cmdLzwEnc tenA).status ≠ .busy ∧ ∃ t, exec .lzwEnc (loaded cmdLzwEnc tenA) = .next t) ∧
    ((running cmdLzwEnc tenA).status = .busy ∧ (running cmdLzwEnc tenA).cmd = cmdLzwEnc ∧
      DictSound (running cmdLzwEnc tenA) ∧ ∃ t, step (running cmdLzwEnc tenA) = .next t ∧ t.status = .busy) := by
  obtain ⟨t, ht, hp⟩ := step_exists (s := running cmdLzwEnc tenA) (p := fun t => t.status = .busy) (by decide +kernel)
  obtain ⟨u, hu, -⟩ := nextIs_exists (o := exec .lzwEnc (loaded cmdLzwEnc tenA)) (p := fun _ => true) (by decide +kernel)
  exact ⟨⟨by decide, u, hu⟩, by decide, by decide, dictSound_started _, t, ht, by simpa using hp⟩

theorem witness_LzwEncRunsAsTransaction :
    Ready cmdLzwEnc tenA (loaded cmdLzwEnc tenA) ∧ unbounded (loaded cmdLzwEnc tenA) :=
  ⟨ready_loaded (by decide) (by decide), by decide⟩

/-- Codes 255 and 256 as the first word. -/
theorem witness_FirstCodeWord :
    (let s := runningDec 2 [0, 0xFF]
     codeUnit (.codeW2 255) = some (2, 255) ∧ s.status = .busy ∧ s.cmd = cmdLzwDec ∧ s.width = 2 ∧ s.prev = none ∧
      tableLookup s.table 255 = some [BitVec.ofNat 8 255] ∧ outFits s.params (s.outLen + 1) = true) ∧
    (let s := runningDec 4 [0, 0, 1, 0]
     codeUnit (.codeW4 256) = some (4, 256) ∧ s.status = .busy ∧ s.cmd = cmdLzwDec ∧ s.width = 4 ∧ s.prev = none) := by
  decide +kernel

/-- The code 65 and the code 256 = `next_code` as the second word. -/
theorem witness_CodeWordAfterFirst :
    (let s := decAfterFirst 2 [0, 0x41, 0, 0x41]
     codeUnit (.codeW2 65) = some (2, 65) ∧ s.status = .busy ∧ s.cmd = cmdLzwDec ∧ s.width = 2 ∧ s.prev = some [0x41] ∧
      65 < s.nextCode ∧ tableLookup s.table 65 = some [0x41] ∧ dictFits s.params s.nextCode = true ∧
      outFits s.params (s.outLen + 1) = true) ∧
    (let s := decAfterFirst 3 [0, 0, 0x41, 0, 1, 0]
     codeUnit (.codeW3 256) = some (3, 256) ∧ s.status = .busy ∧ s.cmd = cmdLzwDec ∧ s.width = 3 ∧
      s.prev = some [0x41] ∧ 256 = s.nextCode ∧ ([0x41] : Phrase).head? = some 0x41 ∧
      outFits s.params (s.outLen + 2) = true) := by decide +kernel

/-- `LZW_DEC` after the first word of `00 41 01 01` is sound. -/
theorem tableSound_afterFirst : TableSound (decAfterFirst 2 [0, 0x41, 1, 1]) :=
  let h := tableSound_started (s := loadedSide 2 [0, 0x41, 1, 1]) (by decide) (by decide)
  { widthLegal := h.widthLegal, wholeWords := by decide, boundBelow := h.boundBelow, seedsBound := h.seedsBound
    phrasesNonempty := h.phrasesNonempty, prevNonempty := by decide, nextCodeLags := by decide, prevNone := by decide }

/-- The code 257, one above `next_code`. -/
theorem witness_IllegalCodeWord :
    TableSound (decAfterFirst 2 [0, 0x41, 1, 1]) ∧
    (let s := decAfterFirst 2 [0, 0x41, 1, 1]
     codeUnit (.codeW2 257) = some (2, 257) ∧ s.status = .busy ∧ s.cmd = cmdLzwDec ∧ s.width = 2 ∧
      s.prev = some [0x41] ∧ s.nextCode < 257) := ⟨tableSound_afterFirst, by decide +kernel⟩

theorem witness_EndOfInput :
    (let s := runningDec 2 []
     s.status = .busy ∧ s.ip = s.inLen ∧ s.cmd = cmdLzwDec) ∧
    (let s := running cmdLz77Dec []
     s.status = .busy ∧ s.ip = s.inLen ∧ s.cmd = cmdLz77Dec) ∧
    (let s := { running cmdLz77Enc [0x41] with ip := 1 }
     s.status = .busy ∧ s.ip = s.inLen ∧ s.cmd = cmdLz77Enc) := by decide +kernel

theorem witness_TableSoundKept :
    ((loadedSide 2 [0, 0x41]).status ≠ .busy ∧
      ∃ t, exec .lzwDec (loadedSide 2 [0, 0x41]) = .next t ∧ t.status = .busy) ∧
    ((runningDec 2 [0, 0x41]).status = .busy ∧ (runningDec 2 [0, 0x41]).cmd = cmdLzwDec ∧
      TableSound (runningDec 2 [0, 0x41]) ∧ ∃ t, step (runningDec 2 [0, 0x41]) = .next t ∧ t.status = .busy) := by
  obtain ⟨t, ht, hp⟩ := step_exists (s := runningDec 2 [0, 0x41]) (p := fun t => t.status = .busy) (by decide +kernel)
  obtain ⟨u, hu, hq⟩ := nextIs_exists
    (o := exec .lzwDec (loadedSide 2 [0, 0x41])) (p := fun t => t.status = .busy) (by decide +kernel)
  exact ⟨⟨by decide, u, hu, by simpa using hq⟩, by decide, by decide, tableSound_started (by decide) (by decide), t, ht,
    by simpa using hp⟩

theorem witness_LzwDecRunsAsTransaction :
    Ready cmdLzwDec [0, 0x41] (loadedSide 2 [0, 0x41]) ∧ unbounded (loadedSide 2 [0, 0x41]) ∧
      Ready cmdLzwDec [0] (loadedSide 5 [0]) ∧ unbounded (loadedSide 5 [0]) :=
  ⟨ready_loadedSide (by decide), by decide, ready_loadedSide (by decide), by decide⟩

/-- R183's stream. -/
theorem witness_LzwRoundTrip :
    lzwEncodeBytes tenA = .ok ([0x00, 0x41, 0x01, 0x00, 0x01, 0x01, 0x01, 0x02], 2) := by decide +kernel

/-! ### The window-match codec -/

theorem witness_LitToken :
    (let s := running cmdLz77Dec [0, 0x41]
     s.status = .busy ∧ s.cmd = cmdLz77Dec ∧ s.ip + 2 ≤ s.inLen ∧ outFits s.params (s.outLen + 1) = true) ∧
    (let s := running cmdLz77Dec [0]
     s.status = .busy ∧ s.cmd = cmdLz77Dec ∧ s.inLen < s.ip + 2) := by decide

/-- The distance equal to `OUT_LEN`; three bytes only; the distance one above `OUT_LEN`, and 0. -/
theorem witness_MatchToken :
    (let s := wrote (running cmdLz77Dec [0, 0x41, 1, 0, 1, 9]) [0x41] 2
     s.status = .busy ∧ s.cmd = cmdLz77Dec ∧ s.ip + 4 ≤ s.inLen ∧ 1 ≤ (1 : BitVec 16).toNat ∧
      (1 : BitVec 16).toNat ≤ s.outLen ∧ (∀ a, a < s.outLen → (s.out.read a).isSome = true) ∧
      outFits s.params (s.outLen + (9 : BitVec 8).toNat) = true) ∧
    (let s := wrote (running cmdLz77Dec [0, 0x41, 1, 0, 1]) [0x41] 2
     s.status = .busy ∧ s.cmd = cmdLz77Dec ∧ s.inLen < s.ip + 4) ∧
    (let s := wrote (running cmdLz77Dec [0, 0x41, 1, 0, 2, 3]) [0x41] 2
     s.status = .busy ∧ s.cmd = cmdLz77Dec ∧ s.ip + 4 ≤ s.inLen ∧ s.outLen < (2 : BitVec 16).toNat ∧
      (0 : BitVec 16).toNat = 0) := by decide

/-- A position with a match and one without. -/
theorem witness_Lz77EncMicroStep :
    (let s := { running cmdLz77Enc abc with ip := 3 }
     s.status = .busy ∧ s.cmd = cmdLz77Enc ∧ s.ip < s.inLen ∧ s.inputBytes = some abc ∧
      s.params.tieBreak = .smallestDistance ∧ s.params.outCap = none) ∧
    (let s := running cmdLz77Enc abc
     s.status = .busy ∧ s.cmd = cmdLz77Enc ∧ s.ip < s.inLen ∧ s.inputBytes = some abc) := by decide

/-- A lone flag 2, a lone flag 0, a flag 1 with two bytes. -/
theorem witness_Lz77DecFetchErrors :
    (let s := running cmdLz77Dec [2]
     s.status = .busy ∧ s.cmd = cmdLz77Dec ∧ s.ip < s.inLen ∧ s.inputBytes.isSome = true ∧ s.inp.read s.ip = some 2) ∧
    (let s := running cmdLz77Dec [0]
     s.ip < s.inLen ∧ s.inputBytes.isSome = true ∧ s.inp.read s.ip = some 0 ∧ s.inLen < s.ip + 2) ∧
    (let s := running cmdLz77Dec [1, 0, 3]
     s.ip < s.inLen ∧ s.inputBytes.isSome = true ∧ s.inp.read s.ip = some 1 ∧ s.inLen < s.ip + 4) := by decide

theorem witness_Lz77DecRunsAsTransaction :
    Ready cmdLz77Dec [0, 0x41] (loaded cmdLz77Dec [0, 0x41]) ∧ unbounded (loaded cmdLz77Dec [0, 0x41]) ∧
      Ready cmdLz77Dec [2] (loaded cmdLz77Dec [2]) ∧ lz77DecodeBytes [2] = .error .lzBadFlag :=
  ⟨ready_loaded (by decide) (by decide), by decide, ready_loaded (by decide) (by decide), by decide⟩

theorem witness_Lz77EncRunsAsTransaction :
    Ready cmdLz77Enc abc (loaded cmdLz77Enc abc) ∧ unbounded (loaded cmdLz77Enc abc) :=
  ⟨ready_loaded (by decide) (by decide), by decide⟩

theorem witness_WorstCaseOutputLengths :
    lzwEncodeBytes [0x41] = .ok ([0x00, 0x41], 2) ∧ lz77DecodeBytes [0x00, 0x41] = .ok [0x41] ∧
      lzwDecodeBytes .fault 2 [0x00, 0x41, 0x01, 0x00] = .ok [0x41, 0x41, 0x41] := by decide +kernel

/-! ### The container -/

/-- The file of R289 with the algorithm byte 1. -/
def file1 : Bytes := file2.set 5 1

/-- Version 2; algorithm 3; one payload byte missing; exactly the payload, with algorithm 2 and with algorithm 1. -/
theorem witness_CmptHdrLoads :
    (let s := loading file2
     s.status ≠ .busy ∧ s.start = false ∧ s.cmpt.phase = .loadHeader ∧
      20 + (⟨1, 2, 0, 24, 2, 2, 10⟩ : CmptFields).payloadLength.toNat ≤ s.cmpt.file.length ∧
      s.cmpt.file.length < 20 + (⟨1, 1, 2, 24, 2, 2, 11⟩ : CmptFields).payloadLength.toNat) ∧
    (let s := loading file1
     s.status ≠ .busy ∧ s.start = false ∧ s.cmpt.phase = .loadHeader ∧
      decode .container s.cmpt.file = .unit (.cmptHdr ⟨1, 1, 0, 24, 2, 2, 10⟩) (file1.drop 20) ∧
      (⟨1, 1, 0, 24, 2, 2, 10⟩ : CmptFields).version = 1 ∧ (⟨1, 1, 0, 24, 2, 2, 10⟩ : CmptFields).algorithmId = 1 ∧
      20 + (⟨1, 1, 0, 24, 2, 2, 10⟩ : CmptFields).payloadLength.toNat ≤ s.cmpt.file.length) ∧
    (⟨2, 3, 0, 24, 2, 2, 10⟩ : CmptFields).version ≠ 1 ∧
    (⟨1, 3, 0, 24, 2, 2, 10⟩ : CmptFields).version = 1 ∧ (⟨1, 3, 0, 24, 2, 2, 10⟩ : CmptFields).algorithmId ≠ 1 ∧
      (⟨1, 3, 0, 24, 2, 2, 10⟩ : CmptFields).algorithmId ≠ 2 := by decide

theorem witness_CmptHdrSaves :
    saved.status = .done ∧ saved.start = false ∧ saved.cmpt.phase = .saveCodec ∧
      saved.outputBytes = some [0, 0xFF, 0, 0, 0, 0, 1, 0, 3, 9] ∧ saved.cmpt.alg ≤ 255 ∧ saved.cmpt.bpp ≤ 255 ∧
      saved.cmpt.width < 2 ^ 32 ∧ saved.cmpt.height < 2 ^ 32 ∧ saved.outLen < 2 ^ 32 := by decide

/-- A call of `CMPT_SAVE`. -/
def saving (bpp alg : Nat) : State :=
  { State.reset with cmpt :=
    { Cmpt.reset with phase := .saveStart, width := 2, height := 2, bpp := bpp, pixels := pixels12, alg := alg } }

/-- 255 bits and algorithm 1; 256 bits; algorithm 3. -/
theorem witness_CmptSaveStarts :
    (let s := saving 255 1
     s.status ≠ .busy ∧ s.start = false ∧ s.cmpt.phase = .saveStart ∧ (s.cmpt.alg = 1 ∨ s.cmpt.alg = 2) ∧
      s.cmpt.width < 2 ^ 32 ∧ s.cmpt.height < 2 ^ 32 ∧ s.cmpt.bpp ≤ 255) ∧
    ¬ (saving 256 1).cmpt.bpp ≤ 255 ∧ ¬ ((saving 24 3).cmpt.alg = 1 ∨ (saving 24 3).cmpt.alg = 2) := by decide

/-- The right length, a width changed to 3, and a codec error. -/
theorem witness_CmptLoadEnds :
    (let s := decoded 2
     s.start = false ∧ s.cmpt.phase = .loadCodec ∧ s.status = .done ∧ s.outputBytes = some pixels12 ∧
      pixels12.length = s.cmpt.width * s.cmpt.height * ((s.cmpt.bpp + 7) / 8)) ∧
    (let s := decoded 3
     s.outputBytes = some pixels12 ∧ pixels12.length ≠ s.cmpt.width * s.cmpt.height * ((s.cmpt.bpp + 7) / 8)) ∧
    (let s := (decoded 2).raiseError .lzBadFlag
     s.start = false ∧ s.cmpt.phase = .loadCodec ∧ s.status = .error) := by decide

/-- The file of R289, and one cut off inside its payload. -/
theorem witness_CmptLoadRunsAsTransaction :
    (let s := loading file2
     s.status ≠ .busy ∧ s.start = false ∧ s.cmpt.phase = .loadHeader ∧ s.overlap = false ∧ unbounded s) ∧
    (let s := loading (file2.take 29)
     s.status ≠ .busy ∧ s.start = false ∧ s.cmpt.phase = .loadHeader ∧ s.overlap = false ∧ unbounded s) := by decide

theorem witness_CmptSaveRunsAsTransaction :
    (let s := saving 24 2
     s.status ≠ .busy ∧ s.start = false ∧ s.cmpt.phase = .saveStart ∧ s.overlap = false ∧ unbounded s) := by decide

/-- R289. -/
theorem witness_CmptRoundTrip :
    2 ^ 32 - 1 ≤ Config.Params.default.maxInputLen ∧ pixels12.length = 2 * 2 * ((24 + 7) / 8) ∧
      cmptSaveBytes Config.Params.default 2 2 24 pixels12 2 = .ok file2 := by decide +kernel

/-! ### The whole machine -/

/-- A sound state in which an operation runs. -/
theorem sound_running : Sound (running cmdLz77Dec [0, 0x41]) where
  memories := by decide
  flags := by decide
  output := by decide
  cursor := by decide
  starts := by decide
  calls := by decide
  bmpCursor := by decide
  dict := fun _ h => absurd h (by decide)
  table := fun _ h => absurd h (by decide)

/-- A sound state in which `LZW_ENC` runs. -/
theorem sound_running_enc : Sound (running cmdLzwEnc tenA) where
  memories := by decide
  flags := by decide
  output := by decide
  cursor := by decide
  starts := by decide
  calls := by decide
  bmpCursor := by decide
  dict := fun _ _ => dictSound_started _
  table := fun _ h => absurd h (by decide)

/-- A sound state in which a start is pending. -/
theorem sound_starting : Sound (loaded cmdLz77Dec [0, 0x41]) where
  memories := by decide
  flags := by decide
  output := by decide
  cursor := by decide
  starts := by decide
  calls := by decide
  bmpCursor := by decide
  dict := fun h => absurd h (by decide)
  table := fun h => absurd h (by decide)

theorem witness_MemoryCanonicalKept :
    memoriesCanonical (running cmdLz77Dec [0, 0x41]) ∧ ∃ t, step (running cmdLz77Dec [0, 0x41]) = .next t := by
  obtain ⟨t, ht, -⟩ := step_exists (s := running cmdLz77Dec [0, 0x41]) (p := fun _ => true) (by decide)
  exact ⟨by decide, t, ht⟩

theorem witness_SoundKept :
    Sound (running cmdLz77Dec [0, 0x41]) ∧ ∃ t, step (running cmdLz77Dec [0, 0x41]) = .next t := by
  obtain ⟨t, ht, -⟩ := step_exists (s := running cmdLz77Dec [0, 0x41]) (p := fun _ => true) (by decide)
  exact ⟨sound_running, t, ht⟩

theorem witness_SoundKept_starting :
    Sound (loaded cmdLz77Dec [0, 0x41]) ∧ ∃ t, step (loaded cmdLz77Dec [0, 0x41]) = .next t ∧ t.status = .busy := by
  obtain ⟨t, ht, hp⟩ := step_exists (s := loaded cmdLz77Dec [0, 0x41]) (p := fun t => t.status = .busy) (by decide)
  exact ⟨sound_starting, t, ht, by simpa using hp⟩

theorem witness_SoundStatesAreSafe : Sound (running cmdLzwEnc tenA) := sound_running_enc

theorem witness_EngineWritesOnlyByAppend :
    (running cmdLz77Dec [0, 0x41]).status = .busy ∧
      ∃ t, step (running cmdLz77Dec [0, 0x41]) = .next t ∧ t.outLen = 1 := by
  obtain ⟨t, ht, hp⟩ := step_exists (s := running cmdLz77Dec [0, 0x41]) (p := fun t => t.outLen = 1) (by decide)
  exact ⟨by decide, t, ht, by simpa using hp⟩

/-- Each of the changes happens: the records at the end of `BMP_PARSE`, `SIDE` at the end of `LZW_ENC`. -/
theorem witness_RecordsAndSideChangeOnlyThere :
    (∃ t, step { running cmdBmpParse bmp54 with ip := 14 } = .next t ∧ t.recordsWritten = true) ∧
      ∃ t, step encAtEnd = .next t ∧ t.side = 2 := by
  obtain ⟨t, ht, hp⟩ := step_exists (s := { running cmdBmpParse bmp54 with ip := 14 })
    (p := fun t => t.recordsWritten) (by decide)
  obtain ⟨u, hu, hq⟩ := step_exists (s := encAtEnd) (p := fun t => t.side = 2) (by decide +kernel)
  exact ⟨⟨t, ht, hp⟩, u, hu, by simpa using hq⟩

theorem witness_CursorAdvances :
    Sound (running cmdLz77Dec [0, 0x41]) ∧ (running cmdLz77Dec [0, 0x41]).status = .busy ∧
      ∃ t, step (running cmdLz77Dec [0, 0x41]) = .next t ∧ t.status = .busy := by
  obtain ⟨t, ht, hp⟩ := step_exists (s := running cmdLz77Dec [0, 0x41]) (p := fun t => t.status = .busy) (by decide)
  exact ⟨sound_running, by decide, t, ht, by simpa using hp⟩

theorem witness_HostAccess :
    State.reset.status ≠ .done ∧ State.reset.status ≠ .error ∧ State.reset.status ≠ .busy ∧
      State.reset.start = false ∧ State.reset.cmpt.phase = .idle ∧ saved.status = .done ∧
      saved.outputBytes = some [0, 0xFF, 0, 0, 0, 0, 1, 0, 3, 9] ∧
      ((decoded 2).raiseError .lzBadFlag).status = .error ∧ (running cmdLz77Dec []).status = .busy ∧
      (loaded cmdLz77Dec []).status = .starting ∧ (loaded cmdLz77Dec []).start = true ∧
      (loading file2).status = .idle ∧ (loading file2).cmpt.phase ≠ .idle := by decide

/-- A successful parse, for the records' read. -/
theorem witness_HostAccess_records :
    ∃ t, step { running cmdBmpParse bmp54 with ip := 14 } = .next t ∧ t.status = .done ∧ t.recordsWritten = true := by
  obtain ⟨t, ht, hp⟩ := step_exists (s := { running cmdBmpParse bmp54 with ip := 14 })
    (p := fun t => t.status = .done ∧ t.recordsWritten = true) (by decide)
  exact ⟨t, ht, by simpa using hp⟩

/-- The host's start happens where it is allowed. -/
theorem witness_HostAccess_start : ∃ t, hostStart (loadedIdle cmdLz77Dec [0, 0x41]) = .next t := ⟨_, rfl⟩

theorem premises_idle {c : BitVec 3} {input : Bytes} (hc : 1 ≤ c.toNat ∧ c.toNat ≤ 5 ∧ c ≠ cmdLzwDec)
    (hl : input.length ≤ 2 ^ 32 - 1)
    (hi : ∀ a, a < input.length → ((Memory.writeBytes [] 0 input).read a).isSome = true) :
    LaunchPremises c (loadedIdle c input) :=
  ⟨⟨hc.1, hc.2.1⟩, hl, hi, rfl, fun h => absurd h hc.2.2⟩

/-- A command without a width; `LZW_ENC` with the seeds' room; `LZW_DEC` with a legal width; a refused start; a pending
start and a running operation. -/
theorem witness_HostStartSetsBusy :
    (let s := loadedIdle cmdLz77Dec [0, 0x41]
     s.status ≠ .busy ∧ s.status ≠ .starting ∧ s.start = false ∧ s.cmpt.phase = .idle ∧ LaunchPremises s.cmd s) ∧
    (let s := loadedIdle cmdLzwEnc [0x41]
     s.cmd = cmdLzwEnc ∧ LaunchPremises s.cmd s ∧ dictFits s.params 255 = true) ∧
    (let s := { loadedIdle cmdLzwDec [0, 0x41] with side := 4, sideWritten := true }
     s.status ≠ .busy ∧ s.status ≠ .starting ∧ s.start = false ∧ s.cmpt.phase = .idle ∧ s.cmd = cmdLzwDec ∧
      LaunchPremises s.cmd s ∧ dictFits s.params 255 = true ∧ s.side.toNat ∈ Config.lzwWidths) ∧
    exec (decodeCommand (loadedIdle 7 []).cmd) (loadedIdle 7 []) = .refused .reservedCommand ∧
    hostReadStatus (loaded cmdLz77Dec []) = 1 ∧ hostReadStatus (running cmdLz77Dec []) = 1 :=
  ⟨⟨by decide, by decide, rfl, rfl, premises_idle (by decide) (by decide) (by decide)⟩,
    ⟨rfl, premises_idle (by decide) (by decide) (by decide), by decide⟩,
    ⟨by decide, by decide, rfl, rfl, rfl, ⟨by decide, by decide, by decide, rfl, fun _ => rfl⟩, by decide, by decide⟩,
    rfl, rfl, rfl⟩

/-- A machine whose `OUT` holds one byte and whose dictionary holds the seeds only. -/
def bounded (s : State) : State :=
  { s with params := { Config.Params.default with outCap := some 1, dictCap := some 256 } }

theorem witness_UnitsRefusedByName :
    (let s := bounded (wrote (running cmdLz77Dec [0, 0x41, 0, 0x42]) [0x41] 2)
     s.status = .busy ∧ s.cmd = cmdLz77Dec ∧ s.ip + 2 ≤ s.inLen ∧ outFits s.params (s.outLen + 1) = false) ∧
    (let s := bounded (wrote (running cmdLz77Dec [0, 0x41, 1, 0, 1, 1]) [0x41] 2)
     s.ip + 4 ≤ s.inLen ∧ (1 : BitVec 16).toNat ≤ s.outLen ∧ (∀ a, a < s.outLen → (s.out.read a).isSome = true) ∧
      outFits s.params (s.outLen + (1 : BitVec 8).toNat) = false) ∧
    (let s := bounded (decAfterFirst 2 [0, 0x41, 0, 0x41])
     s.status = .busy ∧ s.cmd = cmdLzwDec ∧ s.width = 2 ∧ s.prev = some [0x41] ∧ 65 < s.nextCode ∧
      tableLookup s.table 65 = some [0x41] ∧ dictFits s.params s.nextCode = false) ∧
    (let s := { decAfterFirst 2 [0, 0x41, 0, 0x41] with params := { Config.Params.default with outCap := some 1 } }
     s.status = .busy ∧ tableLookup s.table 65 = some [0x41] ∧ dictFits s.params s.nextCode = true ∧
      outFits s.params (s.outLen + 1) = false) ∧
    (let s := bounded encAfterFirst
     s.status = .busy ∧ s.cmd = cmdLzwEnc ∧ s.inp.read s.ip = some 0x41 ∧ dictLookup s.dict (s.w ++ [0x41]) = none ∧
      dictLookup s.dict s.w = some 65 ∧ dictFits s.params s.nextCode = false) ∧
    State.reset.status ≠ .busy ∧ codeUnit (.codeW2 65) = some (2, 65) ∧ State.reset.cmpt.phase ≠ .loadHeader ∧
      State.reset.cmpt.phase ≠ .saveCodec := by decide +kernel

end Sys2Proof.Tests
end

section
/-! SUPPORT. What a step fetches and runs, and the bytes at the cursor as a slice of the input: the rules the proofs
about whole operations share. -/

namespace Sys2Proof.Machine

/-! ### The meaning of each instruction -/

@[simp] theorem exec_bmpParse (s : State) : exec .bmpParse s = execBmpParse s := rfl
@[simp] theorem exec_lzwEnc (s : State) : exec .lzwEnc s = execLzwEnc s := rfl
@[simp] theorem exec_lzwDec (s : State) : exec .lzwDec s = execLzwDec s := rfl
@[simp] theorem exec_lz77Enc (s : State) : exec .lz77Enc s = execLz77Enc s := rfl
@[simp] theorem exec_lz77Dec (s : State) : exec .lz77Dec s = execLz77Dec s := rfl
@[simp] theorem exec_lit (v : BitVec 8) (s : State) : exec (.lit v) s = execLit v s := rfl
@[simp] theorem exec_matchTok (d : BitVec 16) (l : BitVec 8) (s : State) :
    exec (.matchTok d l) s = execMatchTok d l s := rfl
@[simp] theorem exec_codeW2 (c : BitVec 16) (s : State) : exec (.codeW2 c) s = codeWordAt 2 c.toNat s := rfl
@[simp] theorem exec_codeW3 (c : BitVec 24) (s : State) : exec (.codeW3 c) s = codeWordAt 3 c.toNat s := rfl
@[simp] theorem exec_codeW4 (c : BitVec 32) (s : State) : exec (.codeW4 c) s = codeWordAt 4 c.toNat s := rfl
@[simp] theorem exec_bmpFileHdr (f : BmpFileFields) (s : State) : exec (.bmpFileHdr f) s = execBmpFileHdr f s := rfl
@[simp] theorem exec_bmpInfoHdr (f : BmpInfoFields) (s : State) : exec (.bmpInfoHdr f) s = execBmpInfoHdr f s := rfl
@[simp] theorem exec_cmptHdr (h : CmptFields) (s : State) : exec (.cmptHdr h) s = execCmptHdr h s := rfl

/-- A code word, at each of its three widths, is `codeWordAt` (R93). -/
theorem exec_of_codeUnit {i : Instr} {w code : Nat} (h : codeUnit i = some (w, code)) (s : State) :
    exec i s = codeWordAt w code s := by
  cases i <;> simp only [codeUnit, Option.some.injEq, Prod.mk.injEq, reduceCtorEq] at h <;>
    obtain ⟨rfl, rfl⟩ := h <;> rfl

/-! ### The stream at the cursor (R68, R97) -/

theorem streamAtCursor_bmpParse {s : State} (h : s.cmd = cmdBmpParse) :
    s.streamAtCursor = if s.ip = 0 then some .bmpFile else some .bmpInfo := by
  simp [State.streamAtCursor, h]

theorem streamAtCursor_lzwDec {s : State} (h : s.cmd = cmdLzwDec) : s.streamAtCursor = some (.codes s.width) := by
  simp [State.streamAtCursor, h, cmdLzwDec, cmdBmpParse]

theorem streamAtCursor_lz77Dec {s : State} (h : s.cmd = cmdLz77Dec) : s.streamAtCursor = some .tokens := by
  simp [State.streamAtCursor, h, cmdLz77Dec, cmdLzwDec, cmdBmpParse]

/-- The encoders read bytes, not units. -/
theorem streamAtCursor_encoder {s : State} (h : s.cmd = cmdLzwEnc ∨ s.cmd = cmdLz77Enc) :
    s.streamAtCursor = none := by
  rcases h with h | h <;> simp [State.streamAtCursor, h, cmdLzwEnc, cmdLz77Enc, cmdLz77Dec, cmdLzwDec, cmdBmpParse]

/-! ### What a step runs -/

theorem step_unit {s : State} {st : Stream} {bs rest : Bytes} {i : Instr} (hb : s.status = .busy)
    (hst : s.streamAtCursor = some st) (hbs : s.bytesAtCursor st.unitBytes = some bs)
    (hd : decode st bs = .unit i rest) : step s = exec i s := by
  simp [step_busy hb, fetchRunning, hst, hbs, hd]

theorem step_reject {s : State} {st : Stream} {bs : Bytes} {r : Reject} (hb : s.status = .busy)
    (hst : s.streamAtCursor = some st) (hbs : s.bytesAtCursor st.unitBytes = some bs)
    (hd : decode st bs = .reject r) : step s = exec (decodeCommand s.cmd) s := by
  simp [step_busy hb, fetchRunning, hst, hbs, hd]

theorem step_noStream {s : State} (hb : s.status = .busy) (hst : s.streamAtCursor = none) :
    step s = exec (decodeCommand s.cmd) s := by
  simp [step_busy hb, fetchRunning, hst]

theorem step_loadHeader {s : State} {i : Instr} {rest : Bytes} (hb : s.status ≠ .busy) (hs : s.start = false)
    (hp : s.cmpt.phase = .loadHeader) (hd : decode .container s.cmpt.file = .unit i rest) :
    step s = exec i s := by
  have hc : decodeCmpt s.cmpt.file = .unit i rest := hd
  simp [step_host hb hs, fetchHostLayer, hp, hc]

theorem step_saveCodec {s : State} (hb : s.status ≠ .busy) (hs : s.start = false)
    (hp : s.cmpt.phase = .saveCodec) (hl : s.outLen < 2 ^ 32) :
    step s = exec (.cmptHdr (saveHeader s)) s := by
  rw [step_host hb hs, fetchHostLayer, hp]
  simp only [if_pos hl, runFetched_instr]

/-- Settles O7: each clause is what `fetch` answers in one situation. -/
theorem stepRunsFetchedInstruction : Obligations.StepRunsFetchedInstruction := by
  intro s
  exact ⟨fun _ _ _ _ => step_unit, fun _ _ _ => step_reject, step_noStream, step_start,
    fun _ _ => step_loadHeader, step_saveCodec, streamAtCursor_bmpParse, streamAtCursor_lzwDec,
    streamAtCursor_lz77Dec, streamAtCursor_encoder⟩

/-! ### The bytes at the cursor -/

/-- A run of reads inside bytes already read is a slice of them. -/
theorem Memory.readBytes_slice {m : Memory} {len a n : Nat} {bs : Bytes} (h : m.readBytes 0 len = some bs) :
    m.readBytes a (min n (len - a)) = some (slice bs a n) := by
  obtain ⟨hlen, hread⟩ := Memory.readBytes_eq_some.mp h
  refine Memory.readBytes_eq_some.mpr ⟨by simp [hlen], fun i hi => ?_⟩
  have hb := hread (a + i) (by omega)
  rw [Nat.zero_add] at hb
  rw [hb, slice, List.getElem?_take_of_lt (by omega), List.getElem?_drop]

theorem inputBytes_length {s : State} {input : Bytes} (h : s.inputBytes = some input) : input.length = s.inLen :=
  Memory.readBytes_length h

theorem bytesAtCursor_eq_slice {s : State} {input : Bytes} (h : s.inputBytes = some input) (n : Nat) :
    s.bytesAtCursor n = some (slice input s.ip n) :=
  Memory.readBytes_slice h

theorem withBytes_eq {s : State} {input : Bytes} (h : s.inputBytes = some input) (n : Nat) (f : Bytes → Outcome) :
    withBytes s n f = f (slice input s.ip n) := by
  simp [withBytes, bytesAtCursor_eq_slice h]

theorem read_inp_eq {s : State} {input : Bytes} (h : s.inputBytes = some input) {a : Nat} (ha : a < s.inLen) :
    s.inp.read a = input[a]? := by
  simpa using (Memory.readBytes_eq_some.mp h).2 a ha

/-! ### Runs -/

@[simp] theorem runSteps_zero (s : State) : runSteps 0 s = .next s := rfl

theorem runSteps_succ {s t : State} (h : step s = .next t) (k : Nat) : runSteps (k + 1) s = runSteps k t := by
  simp [runSteps, h]

@[simp] theorem runSteps_one (s : State) : runSteps 1 s = step s := by
  cases h : step s <;> simp [runSteps, h]

end Sys2Proof.Machine
end

section
/-! SUPPORT. An operation between its start and its end: what its micro-steps keep, and how it ends. -/

namespace Sys2Proof.Machine

/-! ### An operation in progress -/

/-- `t` stands inside the operation `c` that was started at `s` on `input`, and `out` is its output so far. The working
state is free. -/
structure InProgress (c : BitVec 3) (input out : Bytes) (s t : State) : Prop where
  busy : t.status = .busy
  command : t.cmd = c
  noError : t.errKind = .none ∧ t.errCause = .none
  inputSide : inputSideSame s t
  records : recordsSame s t
  side : t.side = s.side ∧ t.sideWritten = s.sideWritten
  loaded : t.inputBytes = some input
  output : t.outputBytes = some out

section
variable {c : BitVec 3} {input out : Bytes} {s t : State}

theorem InProgress.inLen_eq (h : InProgress c input out s t) : t.inLen = input.length :=
  (inputBytes_length h.loaded).symm

theorem InProgress.outLen_eq (h : InProgress c input out s t) : t.outLen = out.length :=
  (Memory.readBytes_length h.output).symm

theorem InProgress.params_eq (h : InProgress c input out s t) : t.params = s.params := h.inputSide.1

theorem InProgress.unbounded (h : InProgress c input out s t) (hu : unbounded s) : unbounded t := by
  simpa [Machine.unbounded, h.params_eq] using hu

/-- The working state of an operation is free (R341, R343). -/
theorem InProgress.withWork (h : InProgress c input out s t) {ip nextCode width : Nat} {dict : List (Phrase × Nat)}
    {w : Phrase} {codes : List Nat} {table : List (Nat × Phrase)} {prev : Option Phrase} {fh : BmpFileHeader} :
    InProgress c input out s { t with
      ip := ip, nextCode := nextCode, dict := dict, w := w, codes := codes, table := table, prev := prev
      width := width, fh := fh } :=
  ⟨h.busy, h.command, h.noError, h.inputSide, h.records, h.side, h.loaded, h.output⟩

theorem InProgress.appended (h : InProgress c input out s t) (bs : Bytes) :
    InProgress c input (out ++ bs) s (t.appended bs) :=
  ⟨h.busy, h.command, h.noError, h.inputSide, h.records, h.side, h.loaded, outputBytes_appended h.output bs⟩

theorem InProgress.endsInError (h : InProgress c input out s t) (cause : ErrCause) :
    EndsInError s (t.raiseError cause) cause :=
  ⟨rfl, rfl, rfl, rfl, h.side.1, h.records, h.inputSide⟩

/-- Outcome Ok, whatever the end writes beside `STATUS` into the working state, `SIDE` and the records. -/
theorem InProgress.endsOk (h : InProgress c input out s t) {ip : Nat} {codes : List Nat} {side : BitVec 8}
    {sideWritten recordsWritten : Bool} {bmpFile : BmpFileHeader} {bmpInfo : BmpInfoHeader} :
    EndsOk s { t with
      ip := ip, codes := codes, side := side, sideWritten := sideWritten, bmpFile := bmpFile, bmpInfo := bmpInfo
      recordsWritten := recordsWritten, status := .done } out :=
  ⟨rfl, h.noError.1, h.noError.2, h.outLen_eq, h.output, h.inputSide⟩

/-! ### The start -/

theorem Ready.launchRefusal_eq_none (h : Ready c input s)
    (hd : c = cmdLzwEnc ∨ c = cmdLzwDec → s.params.dictCap = none) : launchRefusal c s = none :=
  Machine.launchRefusal_eq_none.mpr
    ⟨h.length, h.disjoint, by simp [h.loaded], h.width, fun e => by simp [dictFits, hd e]⟩

theorem Ready.launch_eq (h : Ready c input s) (hd : c = cmdLzwEnc ∨ c = cmdLzwDec → s.params.dictCap = none) :
    launch c s = .next (s.started c) :=
  launch_eq_next.mpr ⟨h.launchRefusal_eq_none hd, rfl⟩

theorem Ready.step_eq (h : Ready c input s) : step s = exec (decodeCommand c) s := by
  rw [step_start h.notBusy h.hasStart, h.command]

/-- The first step of every operation but `LZW_DEC`, whose launch makes two checks more (R342). -/
theorem Ready.step_eq_started (h : Ready c input s) {microStep : State → Outcome}
    (he : exec (decodeCommand c) s = Machine.command c microStep s)
    (hd : c = cmdLzwEnc ∨ c = cmdLzwDec → s.params.dictCap = none) : step s = .next (s.started c) := by
  rw [h.step_eq, he, command_not_busy h.notBusy, h.launch_eq hd]

theorem Ready.inProgress (h : Ready c input s) : InProgress c input [] s (s.started c) :=
  ⟨rfl, rfl, ⟨rfl, rfl⟩, ⟨rfl, rfl, rfl, rfl, rfl, rfl⟩, ⟨rfl, rfl, rfl⟩, ⟨rfl, rfl⟩, h.loaded, rfl⟩

theorem Ready.length_eq (h : Ready c input s) : input.length = s.inLen := inputBytes_length h.loaded

end

/-! ### How a decoder ends -/

/-- The outcome `o` of a decoder started at `s` is the result `r`. -/
def DecoderEnds (s : State) (o : Outcome) : OpResult Bytes → Prop
  | .ok out => ∃ t, o = .next t ∧ EndsOk s t out ∧ t.side = s.side ∧ recordsSame s t
  | .error c => ∃ t, o = .next t ∧ EndsInError s t c
  | .refused r => o = .refused r

theorem InProgress.decoderEnds_finished {c : BitVec 3} {input out : Bytes} {s t : State}
    (h : InProgress c input out s t) : DecoderEnds s (.next t.finished) (.ok out) :=
  ⟨_, rfl, h.endsOk, h.side.1, h.records⟩

theorem InProgress.decoderEnds_raiseError {c : BitVec 3} {input out : Bytes} {s t : State}
    (h : InProgress c input out s t) (cause : ErrCause) : DecoderEnds s (.next (t.raiseError cause)) (.error cause) :=
  ⟨_, rfl, h.endsInError cause⟩

end Sys2Proof.Machine
end

section
/-! SUPPORT. `LZW_ENC` from its start to its outcome (R180). -/

namespace Sys2Proof.Machine

/-- What a run of `LZW_ENC` needs of its dictionary (R29 (i), R171): `w` is empty or a key, and every single byte is a
key. -/
structure PrefixBound (dict : List (Phrase × Nat)) (w : Phrase) : Prop where
  prefixBound : w = [] ∨ (dictLookup dict w).isSome = true
  seedsBound : ∀ b : Byte, (dictLookup dict [b]).isSome = true

theorem prefixBound_seedDict : PrefixBound seedDict [] :=
  ⟨.inl rfl, fun b => by rw [dictLookup_seed]; rfl⟩

theorem PrefixBound.hit {dict : List (Phrase × Nat)} {w : Phrase} (h : PrefixBound dict w) {k : Byte}
    (hk : (dictLookup dict (w ++ [k])).isSome = true) : PrefixBound dict (w ++ [k]) :=
  ⟨.inr hk, h.seedsBound⟩

theorem PrefixBound.miss {dict : List (Phrase × Nat)} {w : Phrase} (h : PrefixBound dict w) (k : Byte) (code : Nat) :
    PrefixBound ((w ++ [k], code) :: dict) [k] := by
  have hseeds : ∀ b : Byte, (dictLookup ((w ++ [k], code) :: dict) [b]).isSome = true := fun b => by
    rw [dictLookup_cons]
    split
    · rfl
    · exact h.seedsBound b
  exact ⟨.inr (hseeds k), hseeds⟩

/-- Where the candidate is no key, `w` is one: the candidate of an empty `w` is a single byte. -/
theorem PrefixBound.lookup_of_miss {dict : List (Phrase × Nat)} {w : Phrase} (h : PrefixBound dict w) {k : Byte}
    (hk : dictLookup dict (w ++ [k]) = none) : dictLookup dict w = some (codeOf dict w) := by
  rcases h.prefixBound with rfl | hw
  · have := h.seedsBound k
    rw [List.nil_append] at hk
    simp [hk] at this
  · obtain ⟨code, hcode⟩ := Option.isSome_iff_exists.mp hw
    simp [codeOf, hcode]

/-! ### The micro-steps -/

theorem step_lzwEnc {s : State} (hb : s.status = .busy) (hc : s.cmd = cmdLzwEnc) : step s = lzwEncStep s := by
  rw [step_noStream hb (streamAtCursor_encoder (.inl hc)), hc]
  exact command_busy hb hc

theorem lzwEncStep_hit {s : State} {k : Byte} (hip : s.ip < s.inLen) (hk : s.inp.read s.ip = some k)
    (h : (dictLookup s.dict (s.w ++ [k])).isSome = true) : lzwEncStep s = .next (lzwHit k s) := by
  obtain ⟨code, hcode⟩ := Option.isSome_iff_exists.mp h
  simp [lzwEncStep, hip, hk, hcode]

theorem lzwEncStep_miss {s : State} {k : Byte} {code : Nat} (hip : s.ip < s.inLen) (hk : s.inp.read s.ip = some k)
    (h : dictLookup s.dict (s.w ++ [k]) = none) (hcode : dictLookup s.dict s.w = some code) :
    lzwEncStep s = if dictFits s.params s.nextCode then .next (lzwMiss k code s) else .refused .dictCapExceeded := by
  simp [lzwEncStep, hip, hk, h, hcode]

theorem lzwEncStep_end {s : State} (hip : s.inLen ≤ s.ip) (h : PrefixBound s.dict s.w) :
    lzwEncStep s = lzwFinish (s.codes ++ lzwCodesFrom s.dict s.nextCode s.w []) s := by
  have hip' : ¬ s.ip < s.inLen := by omega
  by_cases hw : s.w = []
  · simp [lzwEncStep, hip', hw, lzwCodesFrom]
  · obtain ⟨code, hcode⟩ := Option.isSome_iff_exists.mp (h.prefixBound.resolve_left hw)
    simp [lzwEncStep, hip', hw, hcode, lzwCodesFrom, codeOf]

/-! ### The run -/

theorem getElem?_of_drop_eq_cons {input rest : Bytes} {n : Nat} {k : Byte} (h : input.drop n = k :: rest) :
    n < input.length ∧ input[n]? = some k ∧ input.drop (n + 1) = rest := by
  refine ⟨?_, ?_, ?_⟩
  · by_contra hn
    simp [List.drop_eq_nil_of_le (Nat.le_of_not_lt hn)] at h
  · rw [← List.head?_drop, h]; rfl
  · rw [← List.drop_drop, h]; rfl

/-- With `rest` still to read, as many steps as it has bytes lead to the end, which gets the codes of R180. -/
theorem lzwEnc_run {input rest : Bytes} {s t : State} (hu : unbounded s) (h : InProgress cmdLzwEnc input [] s t)
    (hrest : input.drop t.ip = rest) (hd : PrefixBound t.dict t.w) :
    ∃ u, InProgress cmdLzwEnc input [] s u ∧
      runSteps (rest.length + 1) t = lzwFinish (t.codes ++ lzwCodesFrom t.dict t.nextCode t.w rest) u := by
  induction rest generalizing t with
  | nil =>
    have hip : t.inLen ≤ t.ip := by rw [h.inLen_eq]; exact List.drop_eq_nil_iff.mp hrest
    refine ⟨t, h, ?_⟩
    rw [List.length_nil, Nat.zero_add, runSteps_one, step_lzwEnc h.busy h.command, lzwEncStep_end hip hd]
  | cons k rest ih =>
    obtain ⟨hlt, hk, hrest'⟩ := getElem?_of_drop_eq_cons hrest
    have hip : t.ip < t.inLen := by rw [h.inLen_eq]; exact hlt
    have hread : t.inp.read t.ip = some k := by rw [read_inp_eq h.loaded hip, hk]
    cases hc : dictLookup t.dict (t.w ++ [k]) with
    | some code =>
      have hsome : (dictLookup t.dict (t.w ++ [k])).isSome = true := by simp [hc]
      have hstep : step t = .next (lzwHit k t) := by
        rw [step_lzwEnc h.busy h.command, lzwEncStep_hit hip hread hsome]
      obtain ⟨u, hu', hrun⟩ := ih (t := lzwHit k t) h.withWork hrest' (hd.hit hsome)
      refine ⟨u, hu', ?_⟩
      rw [List.length_cons, runSteps_succ hstep, hrun]
      simp [lzwCodesFrom, hc]
    | none =>
      have hfits : dictFits t.params t.nextCode = true := by simp [dictFits, (h.unbounded hu).2]
      have hstep : step t = .next (lzwMiss k (codeOf t.dict t.w) t) := by
        rw [step_lzwEnc h.busy h.command, lzwEncStep_miss hip hread hc (hd.lookup_of_miss hc), if_pos hfits]
      obtain ⟨u, hu', hrun⟩ := ih (t := lzwMiss k (codeOf t.dict t.w) t) h.withWork hrest' (hd.miss k t.nextCode)
      refine ⟨u, hu', ?_⟩
      rw [List.length_cons, runSteps_succ hstep, hrun]
      simp [lzwCodesFrom, hc]

/-- Settles O29: the start, one step for each byte (`lzwEnc_run`), and the end, which is refused where R184 says so. -/
theorem lzwEncRunsAsTransaction : Obligations.LzwEncRunsAsTransaction := by
  intro input s hs hu
  have hstart : step s = .next (s.started cmdLzwEnc) :=
    hs.step_eq_started (microStep := lzwEncStep) rfl fun _ => hu.2
  obtain ⟨u, hend, hrun⟩ := lzwEnc_run hu hs.inProgress rfl prefixBound_seedDict
  refine ⟨input.length + 2, by rw [hs.length_eq], ?_⟩
  have hall : runSteps (input.length + 2) s = lzwFinish (lzwCodes input) u := by
    rw [runSteps_succ hstart]; exact hrun
  rw [hall, lzwEncodeBytes]
  by_cases hbig : Config.lzwCodeBound ≤ maxCode (lzwCodes input)
  · simp [lzwFinish, hbig]
  · simp only [lzwFinish, if_neg hbig, emit_unbounded (hend.unbounded hu).1, andThen_next]
    exact ⟨_, rfl, (hend.appended _).endsOk, rfl, rfl, hend.records⟩

end Sys2Proof.Machine
end

section
/-! SUPPORT. `LZW_DEC` from its start to its outcome (R194). -/

namespace Sys2Proof.Machine

/-- A result after the bytes `out`. -/
def OpResult.prepend (out : Bytes) : OpResult Bytes → OpResult Bytes
  | .ok tail => .ok (out ++ tail)
  | .error c => .error c
  | .refused r => .refused r

@[simp] theorem OpResult.prepend_nil (r : OpResult Bytes) : r.prepend [] = r := by cases r <;> rfl

@[simp] theorem OpResult.prepend_prepend (out bs : Bytes) (r : OpResult Bytes) :
    (r.prepend bs).prepend out = r.prepend (out ++ bs) := by
  cases r <;> simp [OpResult.prepend]

/-! ### The table along a run of code words -/

/-- What a run of code words needs of its table (R32, R189): every code below `next_code` is bound, no phrase is empty,
and the seeds are below `next_code`. -/
structure TableBound (table : List (Nat × Phrase)) (nextCode : Nat) (prev : Option Phrase) : Prop where
  seedsBelow : Config.lzwSeedCount ≤ nextCode
  bound : ∀ c, c < nextCode → ∃ b bs, tableLookup table c = some (b :: bs)
  prevNonempty : prev ≠ some []

/-- `TABLE` after a code word of the phrase `entry` (R192): the first word binds nothing. -/
def tableAfter (table : List (Nat × Phrase)) (nextCode : Nat) (prev : Option Phrase) (entry : Phrase) :
    List (Nat × Phrase) :=
  match prev with
  | none => table
  | some p => (nextCode, p ++ entry.take 1) :: table

/-- `next_code` after a code word (R192). -/
def nextCodeAfter (nextCode : Nat) (prev : Option Phrase) : Nat :=
  match prev with
  | none => nextCode
  | some _ => nextCode + 1

theorem tableBound_seedTable : TableBound seedTable Config.lzwFirstCode none :=
  ⟨Nat.le_refl _, fun c hc => ⟨BitVec.ofNat 8 c, [], by rw [tableLookup_seed]; exact if_pos hc⟩, by simp⟩

section
variable {table : List (Nat × Phrase)} {nextCode code : Nat} {prev : Option Phrase} {entry : Phrase}

theorem TableBound.after (h : TableBound table nextCode prev) (he : entry ≠ []) :
    TableBound (tableAfter table nextCode prev entry) (nextCodeAfter nextCode prev) (some entry) := by
  have hnext : some entry ≠ some [] := fun e => he (Option.some.inj e)
  cases prev with
  | none => exact ⟨h.seedsBelow, h.bound, hnext⟩
  | some p =>
    refine ⟨Nat.le_succ_of_le h.seedsBelow, fun c hc => ?_, hnext⟩
    rw [tableAfter, tableLookup_cons]
    split
    · have hp : p ++ entry.take 1 ≠ [] := by simp [he]
      obtain ⟨b, bs, hb⟩ := List.exists_cons_of_ne_nil hp
      exact ⟨b, bs, by rw [hb]⟩
    · exact h.bound c (by simp only [nextCodeAfter] at hc; omega)

/-- The phrase of a legal code word: a registered one, or the one being registered (R188 to R190). -/
theorem lzwEntry_eq_some (h : TableBound table nextCode prev) (he : lzwEntry table nextCode prev code = some entry) :
    ∃ b bs, entry = b :: bs ∧
      ((prev = none ∧ code < Config.lzwSeedCount ∧ tableLookup table code = some (b :: bs)) ∨
        (∃ p, prev = some p ∧ code < nextCode ∧ tableLookup table code = some (b :: bs)) ∨
        (∃ ps, prev = some (b :: ps) ∧ code = nextCode ∧ b :: bs = b :: ps ++ [b])) := by
  cases prev with
  | none =>
    simp only [lzwEntry, Option.ite_none_right_eq_some] at he
    obtain ⟨hlt, hl⟩ := he
    obtain ⟨b, bs, hb⟩ := h.bound code (Nat.lt_of_lt_of_le hlt h.seedsBelow)
    obtain rfl : b :: bs = entry := by simpa [hb] using hl
    exact ⟨b, bs, rfl, .inl ⟨rfl, hlt, hl⟩⟩
  | some p =>
    simp only [lzwEntry] at he
    split at he
    · rename_i hlt
      obtain ⟨b, bs, hb⟩ := h.bound code hlt
      obtain rfl : b :: bs = entry := by simpa [hb] using he
      exact ⟨b, bs, rfl, .inr (.inl ⟨p, rfl, hlt, he⟩)⟩
    · split at he
      · rename_i _ heq
        cases p with
        | nil => exact absurd rfl h.prevNonempty
        | cons b ps => exact ⟨b, ps ++ [b], by simpa using he.symm, .inr (.inr ⟨ps, rfl, heq, rfl⟩)⟩
      · cases he

/-- One legal code word of the function of R194. -/
theorem lzwDecodeFrom_legal (he : lzwEntry table nextCode prev code = some entry) (rest : List Nat) :
    lzwDecodeFrom table nextCode prev (code :: rest) =
      (lzwDecodeFrom (tableAfter table nextCode prev entry) (nextCodeAfter nextCode prev) (some entry) rest).prepend
        entry := by
  cases prev with
  | none =>
    simp only [lzwDecodeFrom, he, tableAfter, nextCodeAfter]
    cases lzwDecodeFrom table nextCode (some entry) rest <;> rfl
  | some p =>
    simp only [lzwDecodeFrom, he, tableAfter, nextCodeAfter]
    cases lzwDecodeFrom ((nextCode, p ++ entry.take 1) :: table) (nextCode + 1) (some entry) rest <;> rfl

theorem lzwDecodeFrom_illegal (he : lzwEntry table nextCode prev code = none) (rest : List Nat) :
    lzwDecodeFrom table nextCode prev (code :: rest) = .error .lzwBadCode := by
  simp [lzwDecodeFrom, he]

end

/-! ### One code word -/

/-- The state after a legal code word of the phrase `entry` (R188 to R192). -/
def State.afterWord (t : State) (entry : Phrase) : State :=
  { t.appended entry with
    table := tableAfter t.table t.nextCode t.prev entry, nextCode := nextCodeAfter t.nextCode t.prev
    prev := some entry, ip := t.ip + t.width }

theorem emitEntry_unbounded {t : State} (hu : t.params.outCap = none) (entry : Phrase) :
    emitEntry entry t = .next { t.appended entry with prev := some entry, ip := t.ip + t.width } := by
  simp [emitEntry, emit_unbounded hu]

theorem bindEntry_cons (p : Phrase) (b : Byte) (bs : Phrase) (t : State) :
    bindEntry p (b :: bs) t =
      if dictFits t.params t.nextCode then
        .next { t with table := (t.nextCode, p ++ [b]) :: t.table, nextCode := t.nextCode + 1 }
      else .refused .dictCapExceeded := rfl

/-- The binding of R192 and then the append. -/
theorem bindEntry_emitEntry {t : State} (hu : unbounded t) (p : Phrase) (b : Byte) (bs : Phrase) :
    andThen (bindEntry p (b :: bs) t) (emitEntry (b :: bs)) =
      .next { t.appended (b :: bs) with
        table := (t.nextCode, p ++ [b]) :: t.table, nextCode := t.nextCode + 1
        prev := some (b :: bs), ip := t.ip + t.width } := by
  have hfits : dictFits t.params t.nextCode = true := by simp [dictFits, hu.2]
  rw [bindEntry_cons, if_pos hfits, andThen_next]
  exact emitEntry_unbounded
    (t := { t with table := (t.nextCode, p ++ [b]) :: t.table, nextCode := t.nextCode + 1 }) hu.1 _

/-- A legal code word, as the function of R194 names its phrase. -/
theorem codeWord_legal {code : Nat} {entry : Phrase} {t : State} (hu : unbounded t)
    (hb : TableBound t.table t.nextCode t.prev) (he : lzwEntry t.table t.nextCode t.prev code = some entry) :
    codeWord code t = .next (t.afterWord entry) := by
  obtain ⟨b, bs, rfl, ⟨hp, hlt, hl⟩ | ⟨p, hp, hlt, hl⟩ | ⟨ps, hp, heq, hbs⟩⟩ := lzwEntry_eq_some hb he
  · simp [codeWord, hp, hlt, hl, emitEntry_unbounded hu.1, State.afterWord, tableAfter, nextCodeAfter]
  · simp [codeWord, hp, hlt, hl, bindEntry_emitEntry hu, State.afterWord, tableAfter, nextCodeAfter]
  · have hnlt : ¬ code < t.nextCode := by omega
    simp only [codeWord, hp, if_neg hnlt, if_pos heq, ← hbs, bindEntry_emitEntry hu, State.afterWord, tableAfter,
      nextCodeAfter, List.take_succ_cons, List.take_zero]

theorem codeWord_illegal {code : Nat} {t : State} (hb : TableBound t.table t.nextCode t.prev)
    (he : lzwEntry t.table t.nextCode t.prev code = none) : codeWord code t = .next (t.raiseError .lzwBadCode) := by
  cases hp : t.prev with
  | none =>
    rw [hp] at he hb
    by_cases hlt : code < Config.lzwSeedCount
    · obtain ⟨b, bs, hl⟩ := hb.bound code (Nat.lt_of_lt_of_le hlt hb.seedsBelow)
      simp [lzwEntry, hlt, hl] at he
    · simp [codeWord, hp, hlt]
  | some p =>
    rw [hp] at he hb
    by_cases hlt : code < t.nextCode
    · obtain ⟨b, bs, hl⟩ := hb.bound code hlt
      simp [lzwEntry, hlt, hl] at he
    · by_cases heq : code = t.nextCode
      · simp [lzwEntry, heq] at he
      · simp [codeWord, hp, hlt, heq]

/-! ### The micro-steps -/

/-- A whole code word decodes to the instruction of its width and value (R93). -/
theorem decodeCode_whole {bs : Bytes} (hw : bs.length ∈ Config.lzwWidths) :
    ∃ i, decodeCode bs.length bs = .unit i [] ∧ codeUnit i = some (bs.length, beNat bs) := by
  have hlt := beNat_lt bs
  have htake : bs.take bs.length = bs := List.take_length
  have hdrop : bs.drop bs.length = [] := List.drop_length
  have hw' : bs.length = 2 ∨ bs.length = 3 ∨ bs.length = 4 := by simpa [Config.lzwWidths] using hw
  unfold decodeCode
  rw [if_neg (Nat.lt_irrefl _), htake, hdrop]
  rcases hw' with h | h | h <;> rw [h] at hlt ⊢
  · exact ⟨.codeW2 (BitVec.ofNat 16 (beNat bs)), rfl, by
      rw [codeUnit, BitVec.toNat_ofNat, Nat.mod_eq_of_lt (by omega)]⟩
  · exact ⟨.codeW3 (BitVec.ofNat 24 (beNat bs)), rfl, by
      rw [codeUnit, BitVec.toNat_ofNat, Nat.mod_eq_of_lt (by omega)]⟩
  · exact ⟨.codeW4 (BitVec.ofNat 32 (beNat bs)), rfl, by
      rw [codeUnit, BitVec.toNat_ofNat, Nat.mod_eq_of_lt (by omega)]⟩

theorem step_lzwDec {s : State} {input : Bytes} (hb : s.status = .busy) (hc : s.cmd = cmdLzwDec)
    (hi : s.inputBytes = some input) (hw : s.width ∈ Config.lzwWidths) : step s = lzwDecStep s := by
  have hst := streamAtCursor_lzwDec hc
  have hbs := bytesAtCursor_eq_slice hi s.width
  by_cases hlen : (slice input s.ip s.width).length < s.width
  · rw [step_reject (r := .truncated) hb hst hbs (by simp only [decode, decodeCode, if_pos hlen]), hc]
    show execLzwDec s = _
    rw [execLzwDec, if_pos hb, command_busy hb hc]
  · have hpos : 0 < s.width := Nat.pos_of_ne_zero (by rintro h; simp [h, Config.lzwWidths] at hw)
    have hsl := slice_length input s.ip s.width
    have hin := inputBytes_length hi
    have hwhole : (slice input s.ip s.width).length = s.width := by omega
    obtain ⟨i, hdec, hunit⟩ := decodeCode_whole (hwhole ▸ hw)
    rw [hwhole] at hdec hunit
    rw [step_unit hb hst hbs hdec, exec_of_codeUnit hunit, codeWordAt, if_pos ⟨runs_eq_true.mpr ⟨hb, hc⟩, rfl⟩,
      lzwDecStep, if_pos (by omega), withBytes_eq hi, if_neg hlen]

theorem lzwDecStep_word {s : State} {input : Bytes} (hi : s.inputBytes = some input) (hpos : 0 < s.width)
    (hroom : s.ip + s.width ≤ s.inLen) : lzwDecStep s = codeWord (beNat (slice input s.ip s.width)) s := by
  have hlen : ¬ (slice input s.ip s.width).length < s.width := by
    rw [slice_length, inputBytes_length hi]; omega
  rw [lzwDecStep, if_pos (by omega), withBytes_eq hi, if_neg hlen]

theorem lzwDecStep_end {s : State} (h : s.inLen ≤ s.ip) : lzwDecStep s = .next s.finished := by
  rw [lzwDecStep, if_neg (by omega)]

/-! ### The run -/

/-- With `n` code words still to read, at most `n + 1` steps lead to the outcome of R194 after the bytes `out`. -/
theorem lzwDec_run {input out : Bytes} {s t : State} {n : Nat} (hu : unbounded s)
    (h : InProgress cmdLzwDec input out s t) (hw : t.width ∈ Config.lzwWidths)
    (hn : t.ip + n * t.width = input.length) (hb : TableBound t.table t.nextCode t.prev) :
    ∃ k, k ≤ n + 1 ∧ DecoderEnds s (runSteps k t)
      ((lzwDecodeFrom t.table t.nextCode t.prev (lzwWords t.width n (input.drop t.ip))).prepend out) := by
  induction n generalizing t out with
  | zero =>
    refine ⟨1, Nat.le_refl _, ?_⟩
    rw [runSteps_one, step_lzwDec h.busy h.command h.loaded hw, lzwDecStep_end (by rw [h.inLen_eq]; omega)]
    simpa [lzwWords, lzwDecodeFrom, OpResult.prepend] using h.decoderEnds_finished
  | succ n ih =>
    have hpos : 0 < t.width := Nat.pos_of_ne_zero (by rintro e; simp [e, Config.lzwWidths] at hw)
    have hroom : t.ip + t.width + n * t.width = input.length := by rw [← hn, Nat.succ_mul]; omega
    have hstep : step t = codeWord (beNat ((input.drop t.ip).take t.width)) t := by
      rw [step_lzwDec h.busy h.command h.loaded hw, lzwDecStep_word h.loaded hpos (by rw [h.inLen_eq]; omega)]; rfl
    rw [lzwWords, List.drop_drop]
    cases he : lzwEntry t.table t.nextCode t.prev (beNat ((input.drop t.ip).take t.width)) with
    | none =>
      refine ⟨1, by omega, ?_⟩
      rw [runSteps_one, hstep, codeWord_illegal hb he, lzwDecodeFrom_illegal he]
      exact h.decoderEnds_raiseError _
    | some entry =>
      have hne : entry ≠ [] := by
        obtain ⟨b, bs, rfl, -⟩ := lzwEntry_eq_some hb he
        simp
      obtain ⟨k, hk, hrun⟩ := ih (t := t.afterWord entry) (h.appended entry).withWork hw hroom (hb.after hne)
      refine ⟨k + 1, by omega, ?_⟩
      rw [runSteps_succ (hstep.trans (codeWord_legal (h.unbounded hu) hb he)), lzwDecodeFrom_legal he,
        OpResult.prepend_prepend]
      exact hrun

/-! ### The launch -/

theorem lzwDecChecks_pass {s : State} (hw : s.width ∈ Config.lzwWidths) (hl : s.inLen % s.width = 0) :
    lzwDecChecks s = .next s := by
  simp [lzwDecChecks, hw, hl]

theorem lzwDecChecks_badLength {s : State} (hw : s.width ∈ Config.lzwWidths) (hl : s.inLen % s.width ≠ 0) :
    lzwDecChecks s = .next (s.raiseError .lzwBadLength) := by
  simp [lzwDecChecks, hw, hl]

theorem lzwDecChecks_badWidth_fault {s : State} (hw : s.width ∉ Config.lzwWidths)
    (hp : s.params.widthPolicy = .fault) : lzwDecChecks s = .next (s.raiseError .lzwBadWidth) := by
  simp [lzwDecChecks, hw, hp]

theorem lzwDecChecks_badWidth_refuse {s : State} (hw : s.width ∉ Config.lzwWidths)
    (hp : s.params.widthPolicy = .refuse) : lzwDecChecks s = .refused .badWidth := by
  simp [lzwDecChecks, hw, hp]

/-- The first step of `LZW_DEC`: the launch and its two checks (R186, R187). -/
theorem Ready.step_lzwDec {input : Bytes} {s : State} (h : Ready cmdLzwDec input s) (hu : unbounded s) :
    step s = lzwDecChecks (s.started cmdLzwDec) := by
  rw [h.step_eq]
  show execLzwDec s = _
  rw [execLzwDec, if_neg h.notBusy, h.launch_eq fun _ => hu.2, andThen_next]

/-- From the start to the outcome, with a check that fails as one step. -/
theorem lzwDec_runs {input : Bytes} {s : State} (hs : Ready cmdLzwDec input s) (hu : unbounded s) :
    ∃ k, k ≤ s.inLen + 2 ∧
      DecoderEnds s (runSteps k s) (lzwDecodeBytes s.params.widthPolicy s.side.toNat input) := by
  have hstart := hs.step_lzwDec hu
  have hlen := hs.length_eq
  by_cases hw : s.side.toNat ∈ Config.lzwWidths
  · by_cases hmod : input.length % s.side.toNat = 0
    · have hpass : step s = .next (s.started cmdLzwDec) := hstart.trans (lzwDecChecks_pass hw (hlen ▸ hmod))
      have hwords : 0 + input.length / s.side.toNat * s.side.toNat = input.length := by
        rw [Nat.zero_add]; exact Nat.div_mul_cancel (Nat.dvd_of_mod_eq_zero hmod)
      obtain ⟨k, hk, hrun⟩ := lzwDec_run (n := input.length / s.side.toNat) hu hs.inProgress hw hwords
        tableBound_seedTable
      have hle := Nat.div_le_self input.length s.side.toNat
      refine ⟨k + 1, by omega, ?_⟩
      simp only [runSteps_succ hpass, lzwDecodeBytes, if_pos hw, if_pos hmod]
      rw [OpResult.prepend_nil] at hrun
      exact hrun
    · refine ⟨1, by omega, ?_⟩
      simp only [runSteps_one, hstart.trans (lzwDecChecks_badLength hw (hlen ▸ hmod)), lzwDecodeBytes, if_pos hw,
        if_neg hmod]
      exact hs.inProgress.decoderEnds_raiseError _
  · refine ⟨1, by omega, ?_⟩
    cases hp : s.params.widthPolicy with
    | fault =>
      simp only [runSteps_one, hstart.trans (lzwDecChecks_badWidth_fault hw hp), lzwDecodeBytes, if_neg hw]
      exact hs.inProgress.decoderEnds_raiseError _
    | refuse =>
      simp only [runSteps_one, hstart.trans (lzwDecChecks_badWidth_refuse hw hp), lzwDecodeBytes, if_neg hw]
      exact rfl

/-- Settles O35: the launch with its two checks, then one step for each code word (`lzwDec_run`). -/
theorem lzwDecRunsAsTransaction : Obligations.LzwDecRunsAsTransaction :=
  fun _ _ hs hu => lzwDec_runs hs hu

end Sys2Proof.Machine
end

section
/-! SUPPORT. `LZ77_DEC` from its start to its outcome (R251). -/

namespace Sys2Proof

/-! ### Tokens -/

theorem readToken_eq_lit {bs rest : Bytes} {v : Byte} (h : readToken bs = .lit v rest) :
    bs = Config.lzFlagLit :: v :: rest := by
  unfold readToken at h
  split at h
  · cases h
  · split at h
    · rename_i hflag
      split at h
      · obtain ⟨rfl, rfl⟩ := TokenRead.lit.inj h
        rw [hflag]
      · cases h
    · split at h
      · split at h <;> cases h
      · cases h

theorem readToken_eq_mtch {bs rest : Bytes} {d : BitVec 16} {l : Byte} (h : readToken bs = .mtch d l rest) :
    ∃ d1 d0, bs = Config.lzFlagMatch :: d1 :: d0 :: l :: rest := by
  unfold readToken at h
  split at h
  · cases h
  · split at h
    · split at h <;> cases h
    · split at h
      · rename_i hflag
        split at h
        · obtain ⟨-, rfl, rfl⟩ := TokenRead.mtch.inj h
          exact ⟨_, _, by rw [hflag]⟩
        · cases h
      · cases h

/-- A token is settled by at most four bytes (R95, R96); only what is left over differs. -/
theorem readToken_take_four (bs : Bytes) :
    readToken (bs.take 4) =
      match readToken bs with
      | .lit v rest => .lit v (rest.take 2)
      | .mtch d l _ => .mtch d l []
      | .badFlag => .badFlag
      | .truncated => .truncated := by
  cases bs with
  | nil => rfl
  | cons flag rest =>
    by_cases h0 : flag = Config.lzFlagLit
    · subst h0
      cases rest <;> rfl
    · by_cases h1 : flag = Config.lzFlagMatch
      · subst h1
        rcases rest with _ | ⟨d1, _ | ⟨d0, _ | ⟨l, rest⟩⟩⟩ <;> rfl
      · simp [readToken, h0, h1]

end Sys2Proof

namespace Sys2Proof.Machine

/-! ### Appends -/

@[simp] theorem State.appended_nil (s : State) : s.appended [] = s := rfl

theorem Memory.writeBytes_append (m : Memory) (a : Nat) (as bs : Bytes) :
    m.writeBytes a (as ++ bs) = (m.writeBytes a as).writeBytes (a + as.length) bs := by
  induction as generalizing m a with
  | nil => rfl
  | cons b as ih => simp [Memory.writeBytes, ih, Nat.add_assoc, Nat.add_comm 1]

theorem State.appended_appended (s : State) (as bs : Bytes) :
    (s.appended as).appended bs = s.appended (as ++ bs) := by
  simp [State.appended, Memory.writeBytes_append, Nat.add_assoc]

theorem read_out_eq {s : State} {out : Bytes} (h : s.outputBytes = some out) {a : Nat} (ha : a < s.outLen) :
    s.out.read a = out[a]? := by
  simpa using (Memory.readBytes_eq_some.mp h).2 a ha

theorem slice_one {bs : Bytes} {a : Nat} {b : Byte} (h : bs[a]? = some b) : slice bs a 1 = [b] := by
  rw [slice, List.take_one, List.head?_drop, h]; rfl

/-- The match copy of the machine is that of R246 on the output so far. -/
theorem copyBytes_eq_copyList {dist n : Nat} {t : State} {out : Bytes} (hu : t.params.outCap = none)
    (ho : t.outputBytes = some out) (hpos : 1 ≤ dist) (hle : dist ≤ t.outLen) :
    ∃ bs, copyBytes dist n t = .next (t.appended bs) ∧ copyList dist n out = out ++ bs := by
  induction n generalizing t out with
  | zero => exact ⟨[], rfl, (List.append_nil out).symm⟩
  | succ n ih =>
    have hlen : out.length = t.outLen := Memory.readBytes_length ho
    have hlt : t.outLen - dist < out.length := by omega
    have hread : t.out.read (t.outLen - dist) = some out[t.outLen - dist] := by
      rw [read_out_eq ho (by omega), List.getElem?_eq_getElem hlt]
    obtain ⟨bs, hcopy, hlist⟩ := ih (t := t.appended [out[t.outLen - dist]]) hu (outputBytes_appended ho _)
      (Nat.le_succ_of_le hle)
    refine ⟨out[t.outLen - dist] :: bs, ?_, ?_⟩
    · simp only [copyBytes, hread, emit_unbounded hu, andThen_next, hcopy, State.appended_appended]
      rfl
    · rw [copyList, hlen, slice_one (List.getElem?_eq_getElem hlt), hlist, List.append_assoc]
      rfl

/-! ### The micro-steps -/

/-- What `LZ77_DEC` does with the token it reads (R243, R244, R247, R249). -/
def runToken (r : TokenRead) (s : State) : Outcome :=
  match r with
  | .lit v _ => litToken v s
  | .mtch d l _ => matchToken d.toNat l.toNat s
  | .badFlag => raise .lzBadFlag s
  | .truncated => raise .lzTruncated s

theorem lz77DecStep_slice {s : State} {input : Bytes} (hi : s.inputBytes = some input) (hip : s.ip < s.inLen) :
    lz77DecStep s = runToken (readToken (slice input s.ip 4)) s := by
  rw [lz77DecStep, if_pos hip, withBytes_eq hi]
  cases readToken (slice input s.ip 4) <;> rfl

theorem lz77DecStep_token {s : State} {input : Bytes} (hi : s.inputBytes = some input) (hip : s.ip < s.inLen) :
    lz77DecStep s = runToken (readToken (input.drop s.ip)) s := by
  rw [lz77DecStep_slice hi hip, slice, readToken_take_four]
  cases readToken (input.drop s.ip) <;> rfl

theorem lz77DecStep_end {s : State} (h : s.inLen ≤ s.ip) : lz77DecStep s = .next s.finished := by
  rw [lz77DecStep, if_neg (by omega)]

/-- A token executed as an instruction is the operation's own micro-step on its bytes. -/
theorem step_lz77Dec {s : State} {input : Bytes} (hb : s.status = .busy) (hc : s.cmd = cmdLz77Dec)
    (hi : s.inputBytes = some input) : step s = lz77DecStep s := by
  have hst := streamAtCursor_lz77Dec hc
  have hbs := bytesAtCursor_eq_slice hi 4
  have hruns : s.runs cmdLz77Dec = true := runs_eq_true.mpr ⟨hb, hc⟩
  have hreject : ∀ r, decodeToken (slice input s.ip 4) = .reject r → step s = lz77DecStep s := fun r hd => by
    rw [step_reject hb hst hbs hd, hc]
    exact command_busy hb hc
  by_cases hip : s.ip < s.inLen
  · cases hr : readToken (slice input s.ip 4) with
    | lit v rest =>
      have hd : decodeToken (slice input s.ip 4) = .unit (.lit v) rest := by simp only [decodeToken, hr]
      rw [step_unit hb hst hbs hd, lz77DecStep_slice hi hip, hr]
      exact if_pos hruns
    | mtch d l rest =>
      have hd : decodeToken (slice input s.ip 4) = .unit (.matchTok d l) rest := by simp only [decodeToken, hr]
      rw [step_unit hb hst hbs hd, lz77DecStep_slice hi hip, hr]
      exact if_pos hruns
    | badFlag => exact hreject .badFlag (by simp only [decodeToken, hr])
    | truncated => exact hreject .truncated (by simp only [decodeToken, hr])
  · have hnil : slice input s.ip 4 = [] := by
      rw [slice, List.drop_eq_nil_of_le (by rw [inputBytes_length hi]; omega), List.take_nil]
    exact hreject .truncated (by rw [hnil]; rfl)

theorem litToken_unbounded {s : State} {v : Byte} (hu : s.params.outCap = none) (hroom : s.ip + 2 ≤ s.inLen) :
    litToken v s = .next ((s.appended [v]).advance 2) := by
  rw [litToken, if_neg (by omega), emit_unbounded hu, andThen_next]

theorem matchToken_badDistance {s : State} {d l : Nat} (hroom : s.ip + 4 ≤ s.inLen) (hd : d = 0 ∨ s.outLen < d) :
    matchToken d l s = .next (s.raiseError .lzBadDistance) := by
  rw [matchToken, if_neg (by omega), if_pos hd, raise_eq]

theorem matchToken_copy {s : State} {d l : Nat} (hroom : s.ip + 4 ≤ s.inLen) (hd : ¬ (d = 0 ∨ s.outLen < d)) :
    matchToken d l s = andThen (copyBytes d l s) fun t => .next (t.advance 4) := by
  rw [matchToken, if_neg (by omega), if_neg hd]

/-! ### The run -/

theorem drop_add_of_drop_eq_append {input as rest : Bytes} {n : Nat} (hne : as ≠ [])
    (h : input.drop n = as ++ rest) : n + as.length ≤ input.length ∧ input.drop (n + as.length) = rest := by
  have hlen := congrArg List.length h
  have hpos := List.length_pos_of_ne_nil hne
  rw [List.length_drop, List.length_append] at hlen
  exact ⟨by omega, by rw [← List.drop_drop, h, List.drop_left]⟩

theorem InProgress.lz77Dec_ends {input out : Bytes} {s t : State} (h : InProgress cmdLz77Dec input out s t)
    (hle : input.length ≤ t.ip) : DecoderEnds s (runSteps 1 t) (.ok out) := by
  rw [runSteps_one, step_lz77Dec h.busy h.command h.loaded, lz77DecStep_end (by rw [h.inLen_eq]; exact hle)]
  exact h.decoderEnds_finished

/-- With at most `n` bytes still to read, at most `n + 1` steps lead to the outcome of R251 after the bytes `out`. -/
theorem lz77Dec_run {input out : Bytes} {s t : State} {n : Nat} (hu : unbounded s)
    (h : InProgress cmdLz77Dec input out s t) (hn : input.length - t.ip ≤ n) :
    ∃ k, k ≤ n + 1 ∧ DecoderEnds s (runSteps k t) (lz77DecodeFrom n (input.drop t.ip) out) := by
  induction n generalizing t out with
  | zero => exact ⟨1, Nat.le_refl _, h.lz77Dec_ends (by omega)⟩
  | succ n ih =>
    by_cases hle : input.length ≤ t.ip
    · refine ⟨1, by omega, ?_⟩
      rw [List.drop_eq_nil_of_le hle, lz77DecodeFrom, if_pos rfl]
      exact h.lz77Dec_ends hle
    have hcap := (h.unbounded hu).1
    have hlen := h.inLen_eq
    have hstep : step t = runToken (readToken (input.drop t.ip)) t := by
      rw [step_lz77Dec h.busy h.command h.loaded, lz77DecStep_token h.loaded (by omega)]
    rw [lz77DecodeFrom, if_neg (by simpa using hle)]
    cases hr : readToken (input.drop t.ip) with
    | lit v rest =>
      obtain ⟨hroom, hrest⟩ := drop_add_of_drop_eq_append (as := [_, v]) (by simp) (readToken_eq_lit hr)
      have hnext : step t = .next ((t.appended [v]).advance 2) := by
        rw [hstep, hr]; exact litToken_unbounded hcap (hlen ▸ hroom)
      obtain ⟨k, hk, hrun⟩ := ih (t := (t.appended [v]).advance 2) (h.appended [v]).withWork
        (by simp only [State.advance_ip, State.appended_ip]; omega)
      refine ⟨k + 1, by omega, ?_⟩
      rw [runSteps_succ hnext]
      exact hrest ▸ hrun
    | mtch d l rest =>
      obtain ⟨d1, d0, hdrop⟩ := readToken_eq_mtch hr
      obtain ⟨hroom, hrest⟩ := drop_add_of_drop_eq_append (as := [_, d1, d0, l]) (by simp) hdrop
      by_cases hd : d.toNat = 0 ∨ out.length < d.toNat
      · have hnext : step t = .next (t.raiseError .lzBadDistance) := by
          rw [hstep, hr]; exact matchToken_badDistance (hlen ▸ hroom) (h.outLen_eq ▸ hd)
        refine ⟨1, by omega, ?_⟩
        simp only [runSteps_one, hnext, if_pos hd]
        exact h.decoderEnds_raiseError _
      · obtain ⟨bs, hcopy, hlist⟩ := copyBytes_eq_copyList (dist := d.toNat) (n := l.toNat) hcap h.output (by omega)
          (by rw [h.outLen_eq]; omega)
        have hnext : step t = .next ((t.appended bs).advance 4) := by
          rw [hstep, hr, runToken, matchToken_copy (hlen ▸ hroom) (h.outLen_eq ▸ hd), hcopy, andThen_next]
        obtain ⟨k, hk, hrun⟩ := ih (t := (t.appended bs).advance 4) (h.appended bs).withWork
          (by simp only [State.advance_ip, State.appended_ip]; omega)
        refine ⟨k + 1, by omega, ?_⟩
        simp only [runSteps_succ hnext, if_neg hd, hlist]
        exact hrest ▸ hrun
    | badFlag =>
      refine ⟨1, by omega, ?_⟩
      rw [runSteps_one, hstep, hr]
      exact h.decoderEnds_raiseError _
    | truncated =>
      refine ⟨1, by omega, ?_⟩
      rw [runSteps_one, hstep, hr]
      exact h.decoderEnds_raiseError _

theorem lz77DecodeFrom_ne_refused (n : Nat) (input out : Bytes) (r : Refusal) :
    lz77DecodeFrom n input out ≠ .refused r := by
  induction n generalizing input out with
  | zero => simp [lz77DecodeFrom]
  | succ n ih =>
    rw [lz77DecodeFrom]
    split
    · simp
    · split
      · exact ih _ _
      · split
        · simp
        · exact ih _ _
      · simp
      · simp

/-- Settles O41: the start, then one step for each token (`lz77Dec_run`); no token stream is refused. -/
theorem lz77DecRunsAsTransaction : Obligations.Lz77DecRunsAsTransaction := by
  intro input s hs hu
  have hstart : step s = .next (s.started cmdLz77Dec) :=
    hs.step_eq_started (microStep := lz77DecStep) rfl fun _ => hu.2
  obtain ⟨k, hk, hrun⟩ := lz77Dec_run (n := input.length) hu hs.inProgress (Nat.sub_le _ _)
  refine ⟨k + 1, by rw [← hs.length_eq]; omega, ?_⟩
  rw [runSteps_succ hstart]
  have hnot := lz77DecodeFrom_ne_refused input.length input []
  change DecoderEnds s _ (lz77DecodeBytes input) at hrun
  change ∀ r, lz77DecodeBytes input ≠ .refused r at hnot
  cases hres : lz77DecodeBytes input with
  | ok out => rw [hres] at hrun; exact hrun
  | error c => rw [hres] at hrun; exact hrun
  | refused r => exact absurd hres (hnot r)

end Sys2Proof.Machine
end

section
/-! SUPPORT. `LZ77_ENC` from its start to its outcome (R229). -/

namespace Sys2Proof.Machine

theorem step_lz77Enc {s : State} (hb : s.status = .busy) (hc : s.cmd = cmdLz77Enc) : step s = lz77EncStep s := by
  rw [step_noStream hb (streamAtCursor_encoder (.inr hc)), hc]
  exact command_busy hb hc

/-- Every token covers at least one byte (R226, R227). -/
theorem tokenAt_advances (tb : Config.TieBreak) (input : Bytes) (pos : Nat) : 1 ≤ (tokenAt tb input pos).2 := by
  unfold tokenAt
  by_cases h : Config.lzMinMatch ≤ (bestMatch tb input pos).1
  · simp only [if_pos h]
    exact Nat.le_trans (by decide) h
  · simp only [if_neg h, Nat.le_refl]

theorem lz77EncStep_token {s : State} {input : Bytes} (hu : s.params.outCap = none) (hi : s.inputBytes = some input)
    (hip : s.ip < s.inLen) :
    lz77EncStep s = .next
      ((s.appended (tokenAt s.params.tieBreak input s.ip).1).advance (tokenAt s.params.tieBreak input s.ip).2) := by
  simp only [lz77EncStep, if_pos hip, hi, emit_unbounded hu, andThen_next]

theorem lz77EncStep_end {s : State} (h : s.inLen ≤ s.ip) :
    lz77EncStep s = .next { s with side := 0, sideWritten := true, status := .done } := by
  rw [lz77EncStep, if_neg (by omega)]

theorem lz77EncodeFrom_end (tb : Config.TieBreak) {input : Bytes} {pos : Nat} (h : input.length ≤ pos) (n : Nat) :
    lz77EncodeFrom tb input n pos = [] := by
  cases n with
  | zero => rfl
  | succ n => rw [lz77EncodeFrom, if_neg (by omega)]

/-- The outcome `o` of `LZ77_ENC` started at `s` is Ok with the output `out`. -/
def Lz77EncEnds (s : State) (o : Outcome) (out : Bytes) : Prop :=
  ∃ u, o = .next u ∧ EndsOk s u out ∧ u.side = 0 ∧ u.sideWritten = true ∧ recordsSame s u

theorem InProgress.lz77Enc_ends {input out : Bytes} {s t : State} (h : InProgress cmdLz77Enc input out s t)
    (hle : input.length ≤ t.ip) : Lz77EncEnds s (runSteps 1 t) out := by
  rw [runSteps_one, step_lz77Enc h.busy h.command, lz77EncStep_end (by rw [h.inLen_eq]; exact hle)]
  exact ⟨_, rfl, h.endsOk, rfl, rfl, h.records⟩

/-- With at most `n` bytes still to cover, at most `n + 1` steps lead to outcome Ok with the tokens of R229 after the
bytes `out`. -/
theorem lz77Enc_run {input out : Bytes} {s t : State} {n : Nat} (hu : unbounded s)
    (h : InProgress cmdLz77Enc input out s t) (hn : input.length - t.ip ≤ n) :
    ∃ k, k ≤ n + 1 ∧
      Lz77EncEnds s (runSteps k t) (out ++ lz77EncodeFrom s.params.tieBreak input n t.ip) := by
  induction n generalizing t out with
  | zero =>
    refine ⟨1, Nat.le_refl _, ?_⟩
    rw [lz77EncodeFrom, List.append_nil]
    exact h.lz77Enc_ends (by omega)
  | succ n ih =>
    by_cases hle : input.length ≤ t.ip
    · refine ⟨1, by omega, ?_⟩
      rw [lz77EncodeFrom_end _ hle, List.append_nil]
      exact h.lz77Enc_ends hle
    · have hlen := h.inLen_eq
      have hpos := tokenAt_advances s.params.tieBreak input t.ip
      have hstep := (step_lz77Enc h.busy h.command).trans
        (lz77EncStep_token (h.unbounded hu).1 h.loaded (by omega))
      rw [h.params_eq] at hstep
      obtain ⟨k, hk, hrun⟩ := ih
        (t := (t.appended (tokenAt s.params.tieBreak input t.ip).1).advance (tokenAt s.params.tieBreak input t.ip).2)
        (h.appended _).withWork (by simp only [State.advance_ip, State.appended_ip]; omega)
      refine ⟨k + 1, by omega, ?_⟩
      rw [runSteps_succ hstep, lz77EncodeFrom, if_pos (by omega), ← List.append_assoc]
      exact hrun

/-- Settles O42: the start, then one step for each token (`lz77Enc_run`). -/
theorem lz77EncRunsAsTransaction : Obligations.Lz77EncRunsAsTransaction := by
  intro input s hs hu
  have hstart : step s = .next (s.started cmdLz77Enc) :=
    hs.step_eq_started (microStep := lz77EncStep) rfl fun _ => hu.2
  obtain ⟨k, hk, t, hrun, hends⟩ := lz77Enc_run (n := input.length) hu hs.inProgress (Nat.sub_le _ _)
  refine ⟨k + 1, t, by rw [← hs.length_eq]; omega, ?_, hends⟩
  rw [runSteps_succ hstart, hrun]

end Sys2Proof.Machine
end

section
/-! SUPPORT. `BMP_PARSE` from its start to its outcome (R152). -/

namespace Sys2Proof

theorem slice_take (bs : Bytes) (off : Nat) {m n : Nat} (h : m ≤ n) : (slice bs off n).take m = slice bs off m := by
  rw [slice, slice, List.take_take, Nat.min_eq_left h]

/-- A little-endian u32 field is its four bytes (R103): nothing is cut off. -/
theorem leU32_toNat (bs : Bytes) (off : Nat) : (leU32 bs off).toNat = leNat (slice bs off 4) := by
  have hlt := leNat_lt (slice bs off 4)
  have hpow : 256 ^ (slice bs off 4).length ≤ 256 ^ 4 :=
    Nat.pow_le_pow_right (by omega) (by rw [slice_length]; omega)
  rw [leU32, BitVec.toNat_ofNat, Nat.mod_eq_of_lt (by omega)]

/-- The announced size is the field `header_size` of the record read with it (R144, R147). -/
theorem headerSize_toNat (input : Bytes) :
    (bmpInfoFields (slice input 14 40)).headerSize.toNat = leNat (slice input 14 4) := by
  show (leU32 (slice input 14 40) 0).toNat = _
  rw [leU32_toNat, slice, List.drop_zero, slice_take _ _ (by omega)]

end Sys2Proof

namespace Sys2Proof.Machine

section
variable {s : State} {input : Bytes}

theorem infoCause_of_short {inLen headerSize : Nat} (h : inLen < 18) :
    infoCause inLen headerSize = some .bmpShortInfoHeader := by
  rw [infoCause, if_pos h]

/-! ### The micro-steps -/

theorem bmpParseStep_short (h0 : s.ip = 0) (hlen : s.inLen < Config.bmpFileHdrLen) :
    bmpParseStep s = .next (s.raiseError .bmpShortFileHeader) := by
  rw [bmpParseStep, if_pos h0, if_pos hlen, raise_eq]

theorem bmpParseStep_file (hi : s.inputBytes = some input) (h0 : s.ip = 0) (hlen : ¬ s.inLen < Config.bmpFileHdrLen) :
    bmpParseStep s =
      if input.take 2 = Config.bmpSignature then readFileHeader (bmpFileFields (slice input 0 14)) s
      else .next (s.raiseError .bmpBadSignature) := by
  have htake : (slice input 0 14).take 2 = input.take 2 := slice_take input 0 (by omega)
  rw [bmpParseStep, if_pos h0, if_neg hlen, withBytes_eq hi, h0]
  simp only [Config.bmpFileHdrLen, htake, raise_eq]

/-- The second and third read, from the bytes of `IN` (R144 to R150). -/
theorem bmpParseStep_info (hi : s.inputBytes = some input) (h14 : s.ip = 14) :
    bmpParseStep s = readInfoHeader (bmpInfoFields (slice input 14 40)) s := by
  rw [bmpParseStep, if_neg (by omega), readInfoHeader, headerSize_toNat]
  by_cases hlen : s.inLen < 18
  · rw [if_pos hlen, infoCause_of_short hlen]
  · rw [if_neg hlen, withBytes_eq hi, withBytes_eq hi, h14]
    cases hc : infoCause s.inLen (leNat (slice input 14 4)) with
    | some c => rfl
    | none =>
      show readInfoHeader (bmpInfoFields (slice input 14 40)) s = _
      rw [readInfoHeader, headerSize_toNat, hc]

theorem readInfoHeader_error {f : BmpInfoFields} {c : ErrCause} (h : infoCause s.inLen f.headerSize.toNat = some c) :
    readInfoHeader f s = .next (s.raiseError c) := by
  simp only [readInfoHeader, h, raise_eq]

theorem readInfoHeader_ok {f : BmpInfoFields} (h : infoCause s.inLen f.headerSize.toNat = none) :
    readInfoHeader f s = .next { s with
      bmpFile := s.fh, bmpInfo := infoHeaderOf f, recordsWritten := true
      ip := Config.bmpFileHdrLen + f.headerSize.toNat, status := .done } := by
  simp only [readInfoHeader, h]

theorem step_bmpParse_reject {st : Stream} {r : Reject} (hb : s.status = .busy) (hc : s.cmd = cmdBmpParse)
    (hst : s.streamAtCursor = some st) (hi : s.inputBytes = some input)
    (hd : decode st (slice input s.ip st.unitBytes) = .reject r) : step s = bmpParseStep s := by
  rw [step_reject hb hst (bytesAtCursor_eq_slice hi _) hd, hc]
  exact command_busy hb hc

/-- The record `BMP_FILE_HDR` executed as an instruction is the operation's own first micro-step. -/
theorem step_bmpParse_file (hb : s.status = .busy) (hc : s.cmd = cmdBmpParse) (hi : s.inputBytes = some input)
    (h0 : s.ip = 0) : step s = bmpParseStep s := by
  have hst : s.streamAtCursor = some .bmpFile := (streamAtCursor_bmpParse hc).trans (if_pos h0)
  have hlen : (slice input s.ip 14).length = min 14 s.inLen := by rw [slice_length, h0, inputBytes_length hi]; rfl
  by_cases hshort : (slice input s.ip 14).length < 14
  · exact step_bmpParse_reject (r := .truncated) hb hc hst hi (if_pos hshort)
  by_cases hsig : (slice input s.ip 14).take 2 = Config.bmpSignature
  · have hd : decode .bmpFile (slice input s.ip 14) = _ := (if_neg hshort).trans (if_pos hsig)
    rw [step_unit hb hst (bytesAtCursor_eq_slice hi 14) hd, exec_bmpFileHdr, execBmpFileHdr,
      if_pos ⟨runs_eq_true.mpr ⟨hb, hc⟩, h0⟩, bmpParseStep_file hi h0 (by simp only [Config.bmpFileHdrLen]; omega),
      h0, if_pos (by rw [← hsig, h0]; exact (slice_take input 0 (by omega)).symm)]
  · exact step_bmpParse_reject (r := .badSignature) hb hc hst hi ((if_neg hshort).trans (if_neg hsig))

/-- The record `BMP_INFO_HDR` executed as an instruction is the operation's own second micro-step. -/
theorem step_bmpParse_info (hb : s.status = .busy) (hc : s.cmd = cmdBmpParse) (hi : s.inputBytes = some input)
    (h14 : s.ip = 14) : step s = bmpParseStep s := by
  have hst : s.streamAtCursor = some .bmpInfo := (streamAtCursor_bmpParse hc).trans (if_neg (by omega))
  by_cases hshort : (slice input s.ip 40).length < 40
  · exact step_bmpParse_reject (r := .truncated) hb hc hst hi (if_pos hshort)
  · have hd : decode .bmpInfo (slice input s.ip 40) = _ := if_neg hshort
    rw [step_unit hb hst (bytesAtCursor_eq_slice hi 40) hd, exec_bmpInfoHdr, execBmpInfoHdr,
      if_pos ⟨runs_eq_true.mpr ⟨hb, hc⟩, h14⟩, bmpParseStep_info hi h14, h14]

end

/-! ### The run -/

/-- The outcome `o` of `BMP_PARSE` started at `s` is the result `r`. -/
def BmpParseEnds (s : State) (o : Outcome) : OpResult (BmpFileHeader × BmpInfoHeader) → Prop
  | .ok (f, i) => ∃ t, o = .next t ∧ EndsOk s t [] ∧ t.bmpFile = f ∧ t.bmpInfo = i ∧
      t.recordsWritten = true ∧ t.side = s.side ∧ t.sideWritten = s.sideWritten
  | .error c => ∃ t, o = .next t ∧ EndsInError s t c
  | .refused _ => False

/-- After the file header, one step leads to the outcome. -/
theorem bmpParse_info_ends {input : Bytes} {s t : State} (h : InProgress cmdBmpParse input [] s t) (h14 : t.ip = 14)
    (hfh : t.fh = fileHeaderOf (bmpFileFields (slice input 0 14))) (hlen : ¬ input.length < Config.bmpFileHdrLen)
    (hsig : input.take 2 = Config.bmpSignature) : BmpParseEnds s (runSteps 1 t) (bmpParseBytes input) := by
  rw [runSteps_one, step_bmpParse_info h.busy h.command h.loaded h14, bmpParseStep_info h.loaded h14, bmpParseBytes,
    if_neg hlen, if_neg (not_not.mpr hsig)]
  have hsize : infoCause t.inLen (bmpInfoFields (slice input 14 40)).headerSize.toNat =
      infoCause input.length (leNat (slice input 14 4)) := by rw [h.inLen_eq, headerSize_toNat]
  cases hc : infoCause input.length (leNat (slice input 14 4)) with
  | some c =>
    rw [readInfoHeader_error (hsize.trans hc)]
    exact ⟨_, rfl, h.endsInError c⟩
  | none =>
    rw [readInfoHeader_ok (hsize.trans hc)]
    exact ⟨_, rfl, h.endsOk, hfh, rfl, rfl, h.side.1, h.side.2⟩

/-- Settles O22: the start, the file header and the info header, with the two early errors after the second step. -/
theorem bmpParseRunsAsTransaction : Obligations.BmpParseRunsAsTransaction := by
  intro input s hs
  have h := hs.inProgress
  have hstart : step s = .next (s.started cmdBmpParse) :=
    hs.step_eq_started (microStep := bmpParseStep) rfl fun e => absurd e (by decide)
  have hfirst : step (s.started cmdBmpParse) = bmpParseStep (s.started cmdBmpParse) :=
    step_bmpParse_file h.busy h.command h.loaded rfl
  suffices hends : ∃ k, k ≤ 3 ∧ BmpParseEnds s (runSteps k s) (bmpParseBytes input) from hends
  by_cases hlen : input.length < Config.bmpFileHdrLen
  · refine ⟨2, by omega, ?_⟩
    rw [runSteps_succ hstart, runSteps_one, hfirst, bmpParseStep_short rfl (h.inLen_eq ▸ hlen), bmpParseBytes,
      if_pos hlen]
    exact ⟨_, rfl, h.endsInError _⟩
  have hfile := hfirst.trans (bmpParseStep_file h.loaded rfl (h.inLen_eq ▸ hlen))
  by_cases hsig : input.take 2 = Config.bmpSignature
  · rw [if_pos hsig, readFileHeader, if_neg (h.inLen_eq ▸ hlen)] at hfile
    refine ⟨3, by omega, ?_⟩
    rw [runSteps_succ hstart, runSteps_succ hfile]
    exact bmpParse_info_ends h.withWork rfl rfl hlen hsig
  · refine ⟨2, by omega, ?_⟩
    rw [runSteps_succ hstart, runSteps_one, hfile, if_neg hsig, bmpParseBytes, if_neg hlen, if_pos hsig]
    exact ⟨_, rfl, h.endsInError _⟩

end Sys2Proof.Machine
end

section
/-! SUPPORT. Where a unit stops by name: a finite capacity (D6, D7), or outside its operation (log 13). -/

namespace Sys2Proof.Machine

/-! ### Finite capacities -/

theorem emit_full {bs : Bytes} {s : State} (h : outFits s.params (s.outLen + bs.length) = false) :
    emit bs s = .refused .outCapExceeded := by
  simp [emit, h]

theorem litToken_full {v : Byte} {s : State} (hroom : s.ip + 2 ≤ s.inLen)
    (h : outFits s.params (s.outLen + 1) = false) : litToken v s = .refused .outCapExceeded := by
  rw [litToken, if_neg (by omega), emit_full (by exact h), andThen_refused]

/-- The copy reaches the byte that does not fit: every byte it reads until then is one written before it or by it. -/
theorem copyBytes_full {d n : Nat} {s : State} (hpos : 1 ≤ d) (hle : d ≤ s.outLen)
    (hread : ∀ a, a < s.outLen → (s.out.read a).isSome = true) (hn : 1 ≤ n)
    (hfull : outFits s.params (s.outLen + n) = false) : copyBytes d n s = .refused .outCapExceeded := by
  induction n generalizing s with
  | zero => omega
  | succ n ih =>
    obtain ⟨b, hb⟩ := Option.isSome_iff_exists.mp (hread (s.outLen - d) (by omega))
    cases hfits : outFits s.params (s.outLen + [b].length) with
    | false => simp only [copyBytes, hb, emit_full hfits, andThen_refused]
    | true =>
      have hn' : 1 ≤ n := by
        by_contra h0
        obtain rfl : n = 0 := by omega
        rw [List.length_singleton] at hfits
        simp [hfits] at hfull
      have hread' : ∀ a, a < s.outLen + 1 → ((s.appended [b]).out.read a).isSome = true := fun a ha => by
        rw [State.appended_out, Memory.read_writeBytes]
        split
        · rename_i hin
          have ha' : a - s.outLen = 0 := by rw [List.length_singleton] at hin; omega
          rw [ha']; rfl
        · rename_i hout
          exact hread a (by rw [List.length_singleton] at hout; omega)
      have hemit : emit [b] s = .next (s.appended [b]) := emit_eq_next.mpr ⟨hfits, rfl⟩
      simp only [copyBytes, hb, hemit, andThen_next]
      exact ih (s := s.appended [b]) (Nat.le_succ_of_le hle) hread' hn' (by
        rw [← hfull, State.appended_params, State.appended_outLen, List.length_singleton]; congr 1; omega)

theorem matchToken_full {d l : Nat} {s : State} (hroom : s.ip + 4 ≤ s.inLen) (hpos : 1 ≤ d) (hle : d ≤ s.outLen)
    (hread : ∀ a, a < s.outLen → (s.out.read a).isSome = true) (hl : 1 ≤ l)
    (hfull : outFits s.params (s.outLen + l) = false) : matchToken d l s = .refused .outCapExceeded := by
  rw [matchToken_copy hroom (by omega), copyBytes_full hpos hle hread hl hfull, andThen_refused]

section
variable {s : State} {code : Nat} {p bs : Phrase} {b : Byte}

theorem codeWord_registered (hp : s.prev = some p) (hlt : code < s.nextCode)
    (hl : tableLookup s.table code = some (b :: bs)) :
    codeWord code s = andThen (bindEntry p (b :: bs) s) (emitEntry (b :: bs)) := by
  simp only [codeWord, hp, if_pos hlt, hl]

theorem codeWord_dictFull (hp : s.prev = some p) (hlt : code < s.nextCode)
    (hl : tableLookup s.table code = some (b :: bs)) (hfull : dictFits s.params s.nextCode = false) :
    codeWord code s = .refused .dictCapExceeded := by
  rw [codeWord_registered hp hlt hl, bindEntry_cons, if_neg (by simp [hfull]), andThen_refused]

theorem codeWord_outFull (hp : s.prev = some p) (hlt : code < s.nextCode)
    (hl : tableLookup s.table code = some (b :: bs)) (hfits : dictFits s.params s.nextCode = true)
    (hfull : outFits s.params (s.outLen + (b :: bs).length) = false) :
    codeWord code s = .refused .outCapExceeded := by
  rw [codeWord_registered hp hlt hl, bindEntry_cons, if_pos hfits, andThen_next, emitEntry, emit_full (by exact hfull),
    andThen_refused]

end

/-! ### Units outside their operation -/

theorem runs_eq_false {s : State} {c : BitVec 3} (h : s.status ≠ .busy ∨ s.cmd ≠ c) : s.runs c = false := by
  rw [State.runs, decide_eq_false_iff_not]
  exact fun ⟨hb, hc⟩ => h.elim (absurd hb) (absurd hc)

theorem codeWordAt_running {w code : Nat} {s : State} (hb : s.status = .busy) (hc : s.cmd = cmdLzwDec)
    (hw : s.width = w) : codeWordAt w code s = codeWord code s :=
  if_pos ⟨runs_eq_true.mpr ⟨hb, hc⟩, hw⟩

theorem codeWordAt_outside {w code : Nat} {s : State}
    (h : s.status ≠ .busy ∨ s.cmd ≠ cmdLzwDec ∨ s.width ≠ w) :
    codeWordAt w code s = .refused .unitOutsideOperation := by
  refine if_neg fun ⟨hr, hw⟩ => ?_
  obtain ⟨hb, hc⟩ := runs_eq_true.mp hr
  exact h.elim (absurd hb) fun h => h.elim (absurd hc) (absurd hw)

theorem execCmptHdr_outside {h : CmptFields} {s : State}
    (hout : s.status = .busy ∨ s.start = true ∨ (s.cmpt.phase ≠ .loadHeader ∧ s.cmpt.phase ≠ .saveCodec)) :
    execCmptHdr h s = .refused .unitOutsideOperation := by
  unfold execCmptHdr
  by_cases hbusy : s.status = .busy ∨ s.start = true
  · rw [if_pos hbusy]
  · rw [if_neg hbusy]
    obtain ⟨hload, hsave⟩ : s.cmpt.phase ≠ .loadHeader ∧ s.cmpt.phase ≠ .saveCodec := by tauto
    cases hp : s.cmpt.phase with
    | loadHeader => exact absurd hp hload
    | saveCodec => exact absurd hp hsave
    | idle | saveStart | loadCodec => rfl

/-- Settles O59: the five refusals of a finite capacity, then the units and records outside their operation. -/
theorem unitsRefusedByName : Obligations.UnitsRefusedByName := by
  refine ⟨?lit, ?matchTok, ?codeWord, ?lzwEnc, ?tokensOutside, ?codesOutside, ?bmpOutside, ?cmptOutside⟩
  case lit =>
    intro v s hb hc hroom hfull
    exact (if_pos (runs_eq_true.mpr ⟨hb, hc⟩)).trans (litToken_full hroom hfull)
  case matchTok =>
    intro d l s hb hc hroom hpos hle hread hl hfull
    exact (if_pos (runs_eq_true.mpr ⟨hb, hc⟩)).trans (matchToken_full hroom hpos hle hread hl hfull)
  case codeWord =>
    intro i w code p b bs s hunit hb hc hw hp hlt hl
    rw [exec_of_codeUnit hunit, codeWordAt_running hb hc hw]
    exact ⟨codeWord_dictFull hp hlt hl, codeWord_outFull hp hlt hl⟩
  case lzwEnc =>
    intro k code s hb hc hip hk hmiss hcode hfull
    rw [exec_lzwEnc, execLzwEnc, command_busy hb hc, lzwEncStep_miss hip hk hmiss hcode, if_neg (by simp [hfull])]
  case tokensOutside =>
    intro v l d s hout
    simp [execLit, execMatchTok, runs_eq_false hout]
  case codesOutside =>
    intro i w code s hunit hout
    rw [exec_of_codeUnit hunit, codeWordAt_outside hout]
  case bmpOutside =>
    intro f g s hout
    simp [execBmpFileHdr, execBmpInfoHdr, runs_eq_false hout]
  case cmptOutside =>
    intro h s hout
    exact execCmptHdr_outside hout

end Sys2Proof.Machine
end

section
/-! SUPPORT. What a start of each value of `CMD` can do, and the invariants of the dictionary codec's working state
(R29, R32): the step lemma of each, from what a micro-step can do. -/

namespace Sys2Proof.Machine

/-! ### The values of `CMD` -/

/-- The operations whose start makes no check beside the launch premises of R342. -/
def plainCommand (c : BitVec 3) : Prop := c = cmdBmpParse ∨ c = cmdLzwEnc ∨ c = cmdLz77Enc ∨ c = cmdLz77Dec

/-- The values R23 reserves. -/
def reservedCommand (c : BitVec 3) : Prop := c = 0 ∨ c = 6 ∨ c = 7

theorem command_cases (c : BitVec 3) : plainCommand c ∨ c = cmdLzwDec ∨ reservedCommand c := by
  unfold plainCommand reservedCommand
  revert c
  decide

theorem plainCommand_ne_lzwDec {c : BitVec 3} (h : plainCommand c) : c ≠ cmdLzwDec := by
  rintro rfl
  exact absurd h (by unfold plainCommand; decide)

theorem exec_reserved {c : BitVec 3} (h : reservedCommand c) (s : State) :
    exec (decodeCommand c) s = .refused .reservedCommand := by
  rcases h with rfl | rfl | rfl <;> rfl

/-! ### The start of an operation -/

theorem exec_plain_not_busy {c : BitVec 3} (h : plainCommand c) {s : State} (hb : s.status ≠ .busy) :
    exec (decodeCommand c) s = launch c s := by
  rcases h with rfl | rfl | rfl | rfl <;> exact command_not_busy hb

theorem exec_lzwDec_not_busy {s : State} (hb : s.status ≠ .busy) :
    exec .lzwDec s = andThen (launch cmdLzwDec s) lzwDecChecks := by
  rw [exec_lzwDec, execLzwDec, if_neg hb]

/-- The start of `LZW_DEC` answers with its first state, once the width and the length pass, or with an error (R186,
R187). -/
theorem exec_lzwDec_start {s t : State} (hb : s.status ≠ .busy) (h : exec .lzwDec s = .next t) :
    launchRefusal cmdLzwDec s = none ∧
      ((s.side.toNat ∈ Config.lzwWidths ∧ s.inLen % s.side.toNat = 0 ∧ t = s.started cmdLzwDec) ∨
        ∃ cause, cause ≠ ErrCause.none ∧ t = (s.started cmdLzwDec).raiseError cause) := by
  rw [exec_lzwDec_not_busy hb] at h
  obtain ⟨u, hu, h⟩ := andThen_eq_next.mp h
  obtain ⟨hprem, rfl⟩ := launch_eq_next.mp hu
  refine ⟨hprem, ?_⟩
  rcases lzwDecChecks_eq_next h with ⟨hw, hl, rfl⟩ | ⟨-, -, rfl⟩ | ⟨-, -, rfl⟩
  · exact .inl ⟨hw, hl, rfl⟩
  · exact .inr ⟨.lzwBadLength, nofun, rfl⟩
  · exact .inr ⟨.lzwBadWidth, nofun, rfl⟩

/-! ### The dictionary of `LZW_ENC` (R29) -/

theorem DictSound.hit {s : State} {k : Byte} (h : DictSound s)
    (hk : (dictLookup s.dict (s.w ++ [k])).isSome = true) : DictSound (lzwHit k s) where
  prefixBound := .inr hk
  prefixEmpty := by simp [lzwHit]
  keysDistinct := h.keysDistinct
  keysNonempty := h.keysNonempty
  codesExact := h.codesExact
  seedsBound := h.seedsBound
  prefixClosed := h.prefixClosed
  nextCodeCounts := h.nextCodeCounts

/-- A new binding hides none, for its key is new. -/
theorem dictLookup_cons_isSome {d : List (Phrase × Nat)} {p q : Phrase} {c : Nat}
    (h : (dictLookup d p).isSome = true) : (dictLookup ((q, c) :: d) p).isSome = true := by
  rw [dictLookup_cons]
  split
  · rfl
  · exact h

/-- A miss binds a phrase all of whose shorter beginnings are keys already, so the keys stay closed (R29 (iii)). -/
theorem DictSound.prefixClosed_miss {s : State} (h : DictSound s) (k : Byte) (c : Nat) (p q : Phrase)
    (hp : (dictLookup ((s.w ++ [k], c) :: s.dict) p).isSome = true) (hq : q ≠ []) (hpre : q <+: p) :
    (dictLookup ((s.w ++ [k], c) :: s.dict) q).isSome = true := by
  by_cases hnew : s.w ++ [k] = p
  · subst hnew
    rcases List.prefix_concat_iff.mp hpre with rfl | hshort
    · exact hp
    · have hw : s.w ≠ [] := fun e => hq (List.prefix_nil.mp (e ▸ hshort))
      exact dictLookup_cons_isSome (h.prefixClosed s.w q (h.prefixBound.resolve_left hw) hq hshort)
  · rw [dictLookup_cons, if_neg hnew] at hp
    exact dictLookup_cons_isSome (h.prefixClosed p q hp hq hpre)

theorem DictSound.miss {s : State} {k : Byte} {code : Nat} (h : DictSound s)
    (hk : dictLookup s.dict (s.w ++ [k]) = none) : DictSound (lzwMiss k code s) where
  prefixBound := .inr (dictLookup_cons_isSome (by rw [lzwMiss_w, h.seedsBound]; rfl))
  prefixEmpty := by simp [lzwMiss]
  keysDistinct := by
    have hnew : s.w ++ [k] ∉ s.dict.map Prod.fst := fun hmem => by
      simpa [hk] using dictLookup_isSome.mpr hmem
    exact List.nodup_cons.mpr ⟨hnew, h.keysDistinct⟩
  keysNonempty := by
    intro p hp
    rcases List.mem_cons.mp hp with rfl | hp
    · simp
    · exact h.keysNonempty p hp
  codesExact := by
    have hperm : (s.nextCode :: s.dict.map Prod.snd).Perm (List.range s.nextCode ++ [s.nextCode]) :=
      (h.codesExact.cons _).trans (List.perm_append_singleton _ _).symm
    simpa [lzwMiss, List.range_succ] using hperm
  seedsBound := by
    intro b
    have hne : s.w ++ [k] ≠ [b] := fun e => by simp [e, h.seedsBound] at hk
    rw [lzwMiss_dict, dictLookup_cons, if_neg hne]
    exact h.seedsBound b
  prefixClosed := h.prefixClosed_miss k s.nextCode
  nextCodeCounts := by
    have := h.nextCodeCounts
    simp only [lzwMiss_nextCode, lzwMiss_codes, List.length_append, List.length_singleton]
    omega

/-- Settles O28: the seeds meet the invariants, and a running micro-step is a hit or a miss. -/
theorem dictSoundKept : Obligations.DictSoundKept := by
  refine ⟨fun s t hb h => ?start, fun s t hb hc hd h hbt => ?kept⟩
  case start =>
    have hl : launch cmdLzwEnc s = .next t := (command_not_busy hb).symm.trans h
    obtain ⟨-, rfl⟩ := launch_eq_next.mp hl
    exact dictSound_started s
  case kept =>
    rw [step_lzwEnc hb hc] at h
    rcases lzwEncStep_eq_next h with ⟨-, k, -, ⟨hk, rfl⟩ | ⟨hk, code, -, rfl⟩⟩ | ⟨-, -, hfin⟩ | ⟨-, -, code, -, hfin⟩
    · exact hd.hit hk
    · exact hd.miss hk
    · obtain ⟨-, rfl⟩ := lzwFinish_eq_next hfin
      cases hbt
    · obtain ⟨-, rfl⟩ := lzwFinish_eq_next hfin
      cases hbt

/-! ### The table of `LZW_DEC` (R32) -/

theorem TableSound.width_pos {s : State} (h : TableSound s) : 0 < s.width :=
  Nat.pos_of_ne_zero fun e => by simpa [e, Config.lzwWidths] using h.widthLegal

theorem TableSound.wholeWords_next {s : State} (h : TableSound s) :
    s.inLen % s.width = 0 ∧ (s.ip + s.width) % s.width = 0 :=
  ⟨h.wholeWords.1, by rw [Nat.add_mod_right]; exact h.wholeWords.2⟩

theorem TableSound.words_next {s : State} (h : TableSound s) : (s.ip + s.width) / s.width = s.ip / s.width + 1 :=
  Nat.add_div_right _ h.width_pos

theorem TableSound.firstCode_le {s : State} (h : TableSound s) : Config.lzwFirstCode ≤ s.nextCode := by
  rw [h.nextCodeLags]; omega

/-- The first code word (R188) binds nothing. -/
theorem TableSound.firstWord {s : State} {entry : Phrase} (h : TableSound s) (hp : s.prev = none) (he : entry ≠ []) :
    TableSound { s.appended entry with prev := some entry, ip := s.ip + s.width } where
  widthLegal := h.widthLegal
  wholeWords := h.wholeWords_next
  boundBelow := h.boundBelow
  seedsBound := h.seedsBound
  phrasesNonempty := h.phrasesNonempty
  prevNonempty := fun e => he (Option.some.inj e)
  nextCodeLags := by
    have hlag := h.nextCodeLags
    rw [h.prevNone.mp hp] at hlag
    show s.nextCode = Config.lzwFirstCode + ((s.ip + s.width) / s.width - 1)
    rw [h.words_next, h.prevNone.mp hp]
    simpa using hlag
  prevNone := by have := h.width_pos; simp; omega

/-- A code word after the first (R189 to R192) binds `next_code`. -/
theorem TableSound.laterWord {s : State} {p bs : Phrase} {b : Byte} (h : TableSound s) (hp : s.prev = some p) :
    TableSound { s.appended (b :: bs) with
      table := (s.nextCode, p ++ [b]) :: s.table, nextCode := s.nextCode + 1
      prev := some (b :: bs), ip := s.ip + s.width } where
  widthLegal := h.widthLegal
  wholeWords := h.wholeWords_next
  boundBelow := by
    intro c
    show (tableLookup ((s.nextCode, p ++ [b]) :: s.table) c).isSome = true ↔ c < s.nextCode + 1
    rw [tableLookup_cons]
    split
    · simp; omega
    · rw [h.boundBelow]; omega
  seedsBound := by
    intro v
    have hle := h.firstCode_le
    have hv : v.toNat < Config.lzwFirstCode := v.isLt
    show tableLookup ((s.nextCode, p ++ [b]) :: s.table) v.toNat = _
    rw [tableLookup_cons, if_neg (by omega)]
    exact h.seedsBound v
  phrasesNonempty := by
    intro c q hq
    replace hq : tableLookup ((s.nextCode, p ++ [b]) :: s.table) c = some q := hq
    rw [tableLookup_cons] at hq
    split at hq
    · obtain rfl := Option.some.inj hq
      simp
    · exact h.phrasesNonempty c q hq
  prevNonempty := nofun
  nextCodeLags := by
    have hlag := h.nextCodeLags
    have hip : s.ip ≠ 0 := fun e => by simp [h.prevNone.mpr e] at hp
    have hdvd : s.width ∣ s.ip := Nat.dvd_of_mod_eq_zero h.wholeWords.2
    have hword : 0 < s.ip / s.width := Nat.div_pos (Nat.le_of_dvd (Nat.pos_of_ne_zero hip) hdvd) h.width_pos
    show s.nextCode + 1 = Config.lzwFirstCode + ((s.ip + s.width) / s.width - 1)
    rw [h.words_next]
    omega
  prevNone := by have := h.width_pos; simp; omega

theorem TableSound.codeWord {s t : State} {code : Nat} (h : TableSound s) (hw : codeWord code s = .next t)
    (hbt : t.status = .busy) : TableSound t := by
  rcases codeWord_eq_next hw with rfl | ⟨hp, -, entry, he, rfl⟩ | ⟨p, b, bs, hp, -, rfl⟩
  · cases hbt
  · exact h.firstWord hp (h.phrasesNonempty _ _ he)
  · exact h.laterWord hp

/-! ### A step of `LZW_DEC`, whatever the width and the bytes of `IN` -/

/-- A step whose bytes were never written faults. -/
theorem step_unwritten {s : State} {st : Stream} (hb : s.status = .busy) (hst : s.streamAtCursor = some st)
    (hbs : s.bytesAtCursor st.unitBytes = none) : step s = .fault .unwrittenByte := by
  simp [step_busy hb, fetchRunning, hst, hbs]

theorem exec_lzwDec_running {s : State} (hb : s.status = .busy) (hc : s.cmd = cmdLzwDec) :
    exec (decodeCommand s.cmd) s = lzwDecStep s := by
  rw [hc]
  exact (if_pos hb).trans (command_busy hb hc)

/-- No bytes are a code word of a width R93 does not give. -/
theorem decodeCode_illegalWidth {w : Nat} {bs : Bytes} (hw : w ∉ Config.lzwWidths) :
    ∃ r, decodeCode w bs = .reject r := by
  unfold decodeCode
  split
  · exact ⟨_, rfl⟩
  · dsimp only
    split
    · exact absurd (by decide) hw
    · exact absurd (by decide) hw
    · exact absurd (by decide) hw
    · exact ⟨_, rfl⟩

/-- A code word executed as an instruction is the operation's own micro-step on its bytes. -/
theorem lzwDecStep_of_step {s t : State} (hb : s.status = .busy) (hc : s.cmd = cmdLzwDec) (h : step s = .next t) :
    lzwDecStep s = .next t := by
  have hst := streamAtCursor_lzwDec hc
  cases hbs : s.bytesAtCursor s.width with
  | none => rw [step_unwritten hb hst hbs] at h; cases h
  | some bs =>
    have hreject : ∀ r, decodeCode s.width bs = .reject r → lzwDecStep s = .next t := fun r hd => by
      rw [← exec_lzwDec_running hb hc, ← step_reject hb hst hbs hd, h]
    by_cases hw : s.width ∈ Config.lzwWidths
    · by_cases hshort : bs.length < s.width
      · exact hreject .truncated (if_pos hshort)
      · have hlen := bytesAtCursor_length hbs
        have hwhole : bs.length = s.width := by omega
        have hpos : 0 < s.width := Nat.pos_of_ne_zero fun e => by simp [e, Config.lzwWidths] at hw
        obtain ⟨i, hdec, hunit⟩ := decodeCode_whole (hwhole ▸ hw)
        rw [hwhole] at hdec hunit
        rw [step_unit hb hst hbs hdec, exec_of_codeUnit hunit, codeWordAt_running hb hc rfl] at h
        rw [lzwDecStep, if_pos (by omega), withBytes_eq_next]
        exact ⟨bs, hbs, by rw [if_neg hshort, h]⟩
    · obtain ⟨r, hr⟩ := decodeCode_illegalWidth (bs := bs) hw
      exact hreject r hr

/-- Settles O34: the seeds are bound below 256 once the two checks have passed, and a running micro-step is a code
word. -/
theorem tableSoundKept : Obligations.TableSoundKept := by
  refine ⟨fun s t hb h hbt => ?start, fun s t hb hc hd h hbt => ?kept⟩
  case start =>
    rcases (exec_lzwDec_start hb h).2 with ⟨hw, hl, rfl⟩ | ⟨cause, -, rfl⟩
    · exact tableSound_started hw hl
    · cases hbt
  case kept =>
    rcases lzwDecStep_eq_next (lzwDecStep_of_step hb hc h) with ⟨-, bs, -, ⟨-, rfl⟩ | ⟨-, hcode⟩⟩ | ⟨-, rfl⟩
    · cases hbt
    · exact hd.codeWord hcode hbt
    · cases hbt

end Sys2Proof.Machine
end

section
/-! SUPPORT. What one step can do, said once: a running operation works on, ends or raises an error, a start is taken
up, or the host layer acts (R6, R20). -/

namespace Sys2Proof.Machine

/-! ### The transitions -/

/-- A micro-step after which the operation of `s` still runs. -/
inductive Works (s : State) : State → Prop
  /-- The first read of `BMP_PARSE` (R143). -/
  | bmpFileHeader (f : BmpFileFields) (hc : s.cmd = cmdBmpParse) (hip : s.ip = 0)
      (hl : Config.bmpFileHdrLen ≤ s.inLen) :
      Works s { s with fh := fileHeaderOf f, ip := Config.bmpFileHdrLen }
  /-- The hit arm of `LZW_ENC` (R174). -/
  | lzwEncHit (k : Byte) (hc : s.cmd = cmdLzwEnc) (hip : s.ip < s.inLen)
      (hk : (dictLookup s.dict (s.w ++ [k])).isSome = true) : Works s (lzwHit k s)
  /-- The miss arm of `LZW_ENC` (R175). -/
  | lzwEncMiss (k : Byte) (code : Nat) (hc : s.cmd = cmdLzwEnc) (hip : s.ip < s.inLen)
      (hk : dictLookup s.dict (s.w ++ [k]) = none) : Works s (lzwMiss k code s)
  /-- The first code word of `LZW_DEC` (R188). -/
  | firstWord (code : Nat) (entry : Phrase) (hc : s.cmd = cmdLzwDec) (hroom : s.ip + s.width ≤ s.inLen)
      (hp : s.prev = none) (he : tableLookup s.table code = some entry) :
      Works s { s.appended entry with prev := some entry, ip := s.ip + s.width }
  /-- A code word after the first (R189 to R192). -/
  | laterWord (p bs : Phrase) (b : Byte) (hc : s.cmd = cmdLzwDec) (hroom : s.ip + s.width ≤ s.inLen)
      (hp : s.prev = some p) :
      Works s { s.appended (b :: bs) with
        table := (s.nextCode, p ++ [b]) :: s.table, nextCode := s.nextCode + 1
        prev := some (b :: bs), ip := s.ip + s.width }
  /-- A token of `LZ77_ENC` (R226, R227). -/
  | encodedToken (input : Bytes) (hc : s.cmd = cmdLz77Enc) (hip : s.ip < s.inLen)
      (hi : s.inputBytes = some input) :
      Works s ((s.appended (tokenAt s.params.tieBreak input s.ip).1).advance
        (tokenAt s.params.tieBreak input s.ip).2)
  /-- A token of `LZ77_DEC`, of `n` bytes (R243, R244). -/
  | decodedToken (bs : Bytes) (n : Nat) (hc : s.cmd = cmdLz77Dec) (hn : 1 ≤ n) (hroom : s.ip + n ≤ s.inLen) :
      Works s ((s.appended bs).advance n)

/-- A micro-step that ends the operation of `s` with outcome Ok. -/
inductive Ends (s : State) : State → Prop
  /-- `BMP_PARSE` delivers the records (R150). -/
  | bmpParse (f : BmpInfoFields) (hc : s.cmd = cmdBmpParse) :
      Ends s { s with
        bmpFile := s.fh, bmpInfo := infoHeaderOf f, recordsWritten := true
        ip := Config.bmpFileHdrLen + f.headerSize.toNat, status := .done }
  /-- `LZW_ENC` writes its stream and `SIDE` (R177 to R179). -/
  | lzwEnc (codes : List Nat) (hc : s.cmd = cmdLzwEnc) :
      Ends s { s.appended (serialise (codeWidth codes) codes) with
        codes := codes, side := BitVec.ofNat 8 (codeWidth codes), sideWritten := true, status := .done }
  /-- `LZ77_ENC` writes 0 to `SIDE` (R236). -/
  | lz77Enc (hc : s.cmd = cmdLz77Enc) : Ends s { s with side := 0, sideWritten := true, status := .done }
  /-- The decoders reach the end of the input (R193, R250). -/
  | decoder (hc : s.cmd = cmdLzwDec ∨ s.cmd = cmdLz77Dec) : Ends s s.finished

/-- The operations that can raise an error (R301 to R303). -/
def raisingCommand (c : BitVec 3) : Prop := c = cmdBmpParse ∨ c = cmdLzwDec ∨ c = cmdLz77Dec

/-- Everything a step can do. -/
inductive Transition (s : State) : State → Prop
  | works {t : State} (hb : s.status = .busy) (h : Works s t) : Transition s t
  | ends {t : State} (hb : s.status = .busy) (h : Ends s t) : Transition s t
  | raises (c : ErrCause) (hb : s.status = .busy) (hc : raisingCommand s.cmd) (hne : c ≠ .none) :
      Transition s (s.raiseError c)
  /-- A start is taken up (R341); `LZW_DEC` has passed its two checks (R186, R187). -/
  | starts (c : BitVec 3) (hb : s.status ≠ .busy) (hs : s.start = true) (hc : s.cmd = c)
      (hop : plainCommand c ∨
        c = cmdLzwDec ∧ s.side.toNat ∈ Config.lzwWidths ∧ s.inLen % s.side.toNat = 0)
      (hi : s.inputBytes.isSome = true) : Transition s (s.started c)
  /-- `LZW_DEC` fails one of its two checks. -/
  | startFails (c : ErrCause) (hb : s.status ≠ .busy) (hs : s.start = true) (hc : s.cmd = cmdLzwDec)
      (hne : c ≠ .none) : Transition s ((s.started cmdLzwDec).raiseError c)
  /-- A call of the host layer ends, or there is none and nothing happens. -/
  | callOver (cmpt : Cmpt) (draws : Nat) (hb : s.status ≠ .busy) (hs : s.start = false) (hp : cmpt.phase = .idle) :
      Transition s { s with cmpt := cmpt, draws := draws }
  /-- `CMPT_SAVE` starts its encoder (R273). -/
  | saveStarts (c : BitVec 3) (input : Bytes) (cmpt : Cmpt) (hb : s.status ≠ .busy) (hs : s.start = false)
      (hc : c = cmdLzwEnc ∨ c = cmdLz77Enc) (hp : cmpt.phase = .saveCodec) :
      Transition s { s.codecStarted c input with cmpt := cmpt }
  /-- `CMPT_LOAD` starts its decoder and hands over the side info to the dictionary codec (R283). -/
  | loadStarts (c : BitVec 3) (input : Bytes) (side : BitVec 8) (written : Bool) (cmpt : Cmpt) (hb : s.status ≠ .busy)
      (hs : s.start = false) (hload : s.cmpt.phase = .loadHeader) (hside : side = s.side ∨ c = cmdLzwDec)
      (hp : cmpt.phase = .loadCodec) :
      Transition s { s.codecStarted c input with side := side, sideWritten := written, cmpt := cmpt }

/-! ### The micro-steps of each operation -/

section
variable {s t : State}

theorem transition_lzwEnc (hb : s.status = .busy) (hc : s.cmd = cmdLzwEnc) (h : lzwEncStep s = .next t) :
    Transition s t := by
  rcases lzwEncStep_eq_next h with ⟨hip, k, -, ⟨hk, rfl⟩ | ⟨hk, code, -, rfl⟩⟩ | ⟨-, -, hfin⟩ | ⟨-, -, code, -, hfin⟩
  · exact .works hb (.lzwEncHit k hc hip hk)
  · exact .works hb (.lzwEncMiss k code hc hip hk)
  · obtain ⟨-, rfl⟩ := lzwFinish_eq_next hfin
    exact .ends hb (.lzwEnc _ hc)
  · obtain ⟨-, rfl⟩ := lzwFinish_eq_next hfin
    exact .ends hb (.lzwEnc _ hc)

theorem transition_codeWord {code : Nat} (hb : s.status = .busy) (hc : s.cmd = cmdLzwDec)
    (hroom : s.ip + s.width ≤ s.inLen) (h : codeWord code s = .next t) : Transition s t := by
  rcases codeWord_eq_next h with rfl | ⟨hp, -, entry, he, rfl⟩ | ⟨p, b, bs, hp, -, rfl⟩
  · exact .raises _ hb (.inr (.inl hc)) nofun
  · exact .works hb (.firstWord code entry hc hroom hp he)
  · exact .works hb (.laterWord p bs b hc hroom hp)

theorem transition_lzwDec (hb : s.status = .busy) (hc : s.cmd = cmdLzwDec) (h : lzwDecStep s = .next t) :
    Transition s t := by
  rcases lzwDecStep_eq_next h with ⟨hip, bs, hbs, ⟨-, rfl⟩ | ⟨hwhole, hcode⟩⟩ | ⟨-, rfl⟩
  · exact .raises _ hb (.inr (.inl hc)) nofun
  · have hlen := bytesAtCursor_length hbs
    exact transition_codeWord hb hc (by omega) hcode
  · exact .ends hb (.decoder (.inl hc))

theorem transition_lz77Enc (hb : s.status = .busy) (hc : s.cmd = cmdLz77Enc) (h : lz77EncStep s = .next t) :
    Transition s t := by
  rcases lz77EncStep_eq_next h with ⟨hip, input, hi, rfl⟩ | ⟨-, rfl⟩
  · exact .works hb (.encodedToken input hc hip hi)
  · exact .ends hb (.lz77Enc hc)

theorem transition_litToken {v : Byte} (hb : s.status = .busy) (hc : s.cmd = cmdLz77Dec)
    (h : litToken v s = .next t) : Transition s t := by
  rcases litToken_eq_next h with ⟨-, rfl⟩ | ⟨hroom, rfl⟩
  · exact .raises _ hb (.inr (.inr hc)) nofun
  · exact .works hb (.decodedToken [v] 2 hc (by omega) hroom)

theorem transition_matchToken {d l : Nat} (hb : s.status = .busy) (hc : s.cmd = cmdLz77Dec)
    (h : matchToken d l s = .next t) : Transition s t := by
  rcases matchToken_eq_next h with ⟨-, rfl⟩ | ⟨-, rfl⟩ | ⟨hroom, -, -, bs, -, rfl⟩
  · exact .raises _ hb (.inr (.inr hc)) nofun
  · exact .raises _ hb (.inr (.inr hc)) nofun
  · exact .works hb (.decodedToken bs 4 hc (by omega) hroom)

theorem transition_lz77Dec (hb : s.status = .busy) (hc : s.cmd = cmdLz77Dec) (h : lz77DecStep s = .next t) :
    Transition s t := by
  rcases lz77DecStep_eq_next h with
    ⟨-, bs, -, ⟨v, rest, -, hlit⟩ | ⟨d, l, rest, -, hmatch⟩ | ⟨-, rfl⟩ | ⟨-, rfl⟩⟩ | ⟨-, rfl⟩
  · exact transition_litToken hb hc hlit
  · exact transition_matchToken hb hc hmatch
  · exact .raises _ hb (.inr (.inr hc)) nofun
  · exact .raises _ hb (.inr (.inr hc)) nofun
  · exact .ends hb (.decoder (.inr hc))

theorem infoCause_ne_none {inLen headerSize : Nat} : infoCause inLen headerSize ≠ some .none := by
  unfold infoCause
  split
  · nofun
  · split
    · nofun
    · split <;> nofun

theorem transition_readFileHeader {f : BmpFileFields} (hb : s.status = .busy) (hc : s.cmd = cmdBmpParse)
    (hip : s.ip = 0) (h : readFileHeader f s = .next t) : Transition s t := by
  rcases readFileHeader_eq_next h with rfl | ⟨hl, rfl⟩
  · exact .raises _ hb (.inl hc) nofun
  · exact .works hb (.bmpFileHeader f hc hip hl)

theorem transition_readInfoHeader {f : BmpInfoFields} (hb : s.status = .busy) (hc : s.cmd = cmdBmpParse)
    (h : readInfoHeader f s = .next t) : Transition s t := by
  rcases readInfoHeader_eq_next h with ⟨cause, hcause, rfl⟩ | ⟨-, rfl⟩
  · exact .raises _ hb (.inl hc) (by rintro rfl; exact infoCause_ne_none hcause)
  · exact .ends hb (.bmpParse f hc)

/-- The raising checks of `BMP_PARSE`'s own micro-step, and the two reads it leads to (R152). -/
theorem transition_bmpParse (hb : s.status = .busy) (hc : s.cmd = cmdBmpParse) (h : bmpParseStep s = .next t) :
    Transition s t := by
  have hraise : ∀ cause, cause ≠ ErrCause.none → raise cause s = .next t → Transition s t := fun cause hne e => by
    rw [← Host.Outcome.next.inj e]
    exact .raises cause hb (.inl hc) hne
  unfold bmpParseStep at h
  by_cases hip : s.ip = 0
  · rw [if_pos hip] at h
    split at h
    · exact hraise .bmpShortFileHeader nofun h
    · obtain ⟨bs, -, h⟩ := withBytes_eq_next.mp h
      split at h
      · exact transition_readFileHeader hb hc hip h
      · exact hraise .bmpBadSignature nofun h
  · rw [if_neg hip] at h
    split at h
    · exact hraise .bmpShortInfoHeader nofun h
    · obtain ⟨hs, -, h⟩ := withBytes_eq_next.mp h
      split at h
      · rename_i cause hcause
        exact hraise cause (by rintro rfl; exact infoCause_ne_none hcause) h
      · obtain ⟨bs, -, h⟩ := withBytes_eq_next.mp h
        exact transition_readInfoHeader hb hc h

/-! ### A step of a running operation -/

/-- What a running operation with a stream can step to: its unit, or its own micro-step. -/
theorem step_stream_eq_next {st : Stream} (hb : s.status = .busy) (hst : s.streamAtCursor = some st)
    (h : step s = .next t) :
    ∃ bs, s.bytesAtCursor st.unitBytes = some bs ∧
      ((∃ i rest, decode st bs = .unit i rest ∧ exec i s = .next t) ∨ exec (decodeCommand s.cmd) s = .next t) := by
  cases hbs : s.bytesAtCursor st.unitBytes with
  | none => rw [step_unwritten hb hst hbs] at h; cases h
  | some bs =>
    refine ⟨bs, rfl, ?_⟩
    cases hd : decode st bs with
    | unit i rest => exact .inl ⟨i, rest, rfl, by rw [← step_unit hb hst hbs hd, h]⟩
    | reject r => exact .inr (by rw [← step_reject hb hst hbs hd, h])

theorem decodeToken_unit {bs rest : Bytes} {i : Instr} (h : decodeToken bs = .unit i rest) :
    (∃ v, i = .lit v) ∨ ∃ d l, i = .matchTok d l := by
  unfold decodeToken at h
  split at h
  · exact .inl ⟨_, (Decoded.unit.inj h).1.symm⟩
  · exact .inr ⟨_, _, (Decoded.unit.inj h).1.symm⟩
  · cases h
  · cases h

theorem decodeBmpFile_unit {bs rest : Bytes} {i : Instr} (h : decodeBmpFile bs = .unit i rest) :
    ∃ f, i = .bmpFileHdr f := by
  unfold decodeBmpFile at h
  split at h
  · cases h
  · split at h
    · exact ⟨_, (Decoded.unit.inj h).1.symm⟩
    · cases h

theorem decodeBmpInfo_unit {bs rest : Bytes} {i : Instr} (h : decodeBmpInfo bs = .unit i rest) :
    ∃ f, i = .bmpInfoHdr f := by
  unfold decodeBmpInfo at h
  split at h
  · cases h
  · exact ⟨_, (Decoded.unit.inj h).1.symm⟩

theorem transition_running_lz77Dec (hb : s.status = .busy) (hc : s.cmd = cmdLz77Dec) (h : step s = .next t) :
    Transition s t := by
  have hruns : s.runs cmdLz77Dec = true := runs_eq_true.mpr ⟨hb, hc⟩
  obtain ⟨bs, -, ⟨i, rest, hd, h⟩ | h⟩ := step_stream_eq_next hb (streamAtCursor_lz77Dec hc) h
  · rcases decodeToken_unit hd with ⟨v, rfl⟩ | ⟨d, l, rfl⟩
    · exact transition_litToken hb hc ((if_pos hruns).symm.trans h)
    · exact transition_matchToken hb hc ((if_pos hruns).symm.trans h)
  · rw [hc] at h
    exact transition_lz77Dec hb hc ((command_busy hb hc).symm.trans h)

theorem transition_running_bmpParse (hb : s.status = .busy) (hc : s.cmd = cmdBmpParse) (h : step s = .next t) :
    Transition s t := by
  have hown : exec (decodeCommand s.cmd) s = .next t → Transition s t := fun h => by
    rw [hc] at h
    exact transition_bmpParse hb hc ((command_busy hb hc).symm.trans h)
  have hst := streamAtCursor_bmpParse hc
  by_cases hip : s.ip = 0
  · obtain ⟨bs, -, ⟨i, rest, hd, h⟩ | h⟩ := step_stream_eq_next hb (hst.trans (if_pos hip)) h
    · obtain ⟨f, rfl⟩ := decodeBmpFile_unit hd
      exact transition_readFileHeader hb hc hip ((if_pos ⟨runs_eq_true.mpr ⟨hb, hc⟩, hip⟩).symm.trans h)
    · exact hown h
  · obtain ⟨bs, -, ⟨i, rest, hd, h⟩ | h⟩ := step_stream_eq_next hb (hst.trans (if_neg hip)) h
    · obtain ⟨f, rfl⟩ := decodeBmpInfo_unit hd
      rw [exec_bmpInfoHdr, execBmpInfoHdr] at h
      split at h
      · exact transition_readInfoHeader hb hc h
      · cases h
    · exact hown h

/-- With a reserved value in `CMD` no operation runs. -/
theorem step_reserved {c : BitVec 3} (hc : s.cmd = c) (hr : reservedCommand c)
    (h : s.status = .busy ∨ s.start = true) : step s = .refused .reservedCommand := by
  have hst : s.streamAtCursor = none := by
    rcases hr with rfl | rfl | rfl <;> simp [State.streamAtCursor, hc, cmdBmpParse, cmdLzwDec, cmdLz77Dec]
  by_cases hb : s.status = .busy
  · rw [step_noStream hb hst, hc, exec_reserved hr]
  · rw [step_start hb (h.resolve_left hb), hc, exec_reserved hr]

theorem transition_running (hb : s.status = .busy) (h : step s = .next t) : Transition s t := by
  rcases command_cases s.cmd with (hc | hc | hc | hc) | hc | hc
  · exact transition_running_bmpParse hb hc h
  · exact transition_lzwEnc hb hc ((step_lzwEnc hb hc).symm.trans h)
  · exact transition_lz77Enc hb hc ((step_lz77Enc hb hc).symm.trans h)
  · exact transition_running_lz77Dec hb hc h
  · exact transition_lzwDec hb hc (lzwDecStep_of_step hb hc h)
  · rw [step_reserved rfl hc (.inl hb)] at h
    cases h

/-! ### A step that takes up a start -/

theorem inputBytes_isSome_of_launch {c : BitVec 3} (h : launchRefusal c s = none) : s.inputBytes.isSome = true := by
  obtain ⟨-, -, hi, -, -⟩ := launchRefusal_eq_none.mp h
  exact Option.isSome_iff_ne_none.mpr hi

theorem transition_start (hb : s.status ≠ .busy) (hs : s.start = true) (h : step s = .next t) : Transition s t := by
  rcases command_cases s.cmd with hc | hc | hc
  · rw [step_start hb hs, exec_plain_not_busy hc hb] at h
    obtain ⟨hprem, rfl⟩ := launch_eq_next.mp h
    exact .starts s.cmd hb hs rfl (.inl hc) (inputBytes_isSome_of_launch hprem)
  · rw [step_start hb hs, hc] at h
    obtain ⟨hprem, ⟨hw, hl, rfl⟩ | ⟨cause, hne, rfl⟩⟩ := exec_lzwDec_start hb h
    · exact .starts cmdLzwDec hb hs hc (.inr ⟨rfl, hw, hl⟩) (inputBytes_isSome_of_launch hprem)
    · exact .startFails cause hb hs hc hne
  · rw [step_reserved rfl hc (.inr hs)] at h
    cases h

/-! ### An act of the host layer -/

theorem execCmptHdr_host {h : CmptFields} (hb : s.status ≠ .busy) (hs : s.start = false) :
    (s.cmpt.phase = .loadHeader → execCmptHdr h s = loadFromHeader h s) ∧
      (s.cmpt.phase = .saveCodec → execCmptHdr h s = writeFile h s) := by
  constructor <;> intro hp <;> simp [execCmptHdr, hb, hs, hp]

theorem transition_callFailed (hb : s.status ≠ .busy) (hs : s.start = false) (k : ErrKind) (c : ErrCause) :
    Transition s (s.callFailed k c) :=
  .callOver { s.cmpt with phase := .idle, result := .failed k c } s.draws hb hs rfl

theorem transition_loadFromHeader {h : CmptFields} (hb : s.status ≠ .busy) (hs : s.start = false)
    (hp : s.cmpt.phase = .loadHeader) (e : loadFromHeader h s = .next t) : Transition s t := by
  rcases loadFromHeader_eq_next e with ⟨-, rfl⟩ | ⟨-, -, rfl⟩ | ⟨-, rfl⟩ | ⟨-, ⟨-, rfl⟩ | ⟨-, rfl⟩⟩
  · exact transition_callFailed hb hs _ _
  · exact transition_callFailed hb hs _ _
  · exact transition_callFailed hb hs _ _
  · exact .loadStarts cmdLzwDec _ h.sideInfo true (loadArgs h s.cmpt) hb hs hp (.inr rfl) rfl
  · exact .loadStarts cmdLz77Dec _ s.side s.sideWritten (loadArgs h s.cmpt) hb hs hp (.inl rfl) rfl

theorem transition_loadFinish (hb : s.status ≠ .busy) (hs : s.start = false) (e : loadFinish s = .next t) :
    Transition s t := by
  rcases loadFinish_eq_next e with ⟨-, rfl⟩ | ⟨-, pixels, -, ⟨-, rfl⟩ | ⟨-, rfl⟩⟩
  · exact transition_callFailed hb hs _ _
  · exact .callOver _ s.draws hb hs rfl
  · exact transition_callFailed hb hs _ _

theorem transition_saveStart (hb : s.status ≠ .busy) (hs : s.start = false) (e : saveStart s = .next t) :
    Transition s t := by
  obtain ⟨-, -, -, -, rfl⟩ := saveStart_eq_next e
  exact .saveStarts _ s.cmpt.pixels { s.cmpt with phase := .saveCodec } hb hs (by split <;> simp) rfl

theorem decodeCmpt_unit {bs rest : Bytes} {i : Instr} (h : decodeCmpt bs = .unit i rest) :
    ∃ f, i = .cmptHdr f := by
  unfold decodeCmpt at h
  split at h
  · split at h
    · cases h
    · exact ⟨_, (Decoded.unit.inj h).1.symm⟩
  · cases h

theorem transition_host (hb : s.status ≠ .busy) (hs : s.start = false) (h : step s = .next t) : Transition s t := by
  rw [step_host hb hs, fetchHostLayer] at h
  cases hp : s.cmpt.phase with
  | idle =>
    rw [hp] at h
    obtain rfl := Host.Outcome.next.inj h
    exact .callOver s.cmpt s.draws hb hs hp
  | saveStart =>
    rw [hp] at h
    exact transition_saveStart hb hs h
  | saveCodec =>
    rw [hp] at h
    dsimp only at h
    split at h
    · rw [runFetched_instr, exec_cmptHdr, (execCmptHdr_host hb hs).2 hp] at h
      obtain ⟨-, payload, -, rfl⟩ := writeFile_eq_next h
      exact .callOver _ _ hb hs rfl
    · cases h
  | loadHeader =>
    rw [hp] at h
    dsimp only at h
    split at h
    · rename_i i rest hd
      obtain ⟨f, rfl⟩ := decodeCmpt_unit hd
      rw [runFetched_instr, exec_cmptHdr, (execCmptHdr_host hb hs).1 hp] at h
      exact transition_loadFromHeader hb hs hp h
    · rw [← Host.Outcome.next.inj h]
      exact transition_callFailed hb hs _ _
    · rw [← Host.Outcome.next.inj h]
      exact transition_callFailed hb hs _ _
  | loadCodec =>
    rw [hp] at h
    exact transition_loadFinish hb hs h

/-- The inversion of `step`. -/
theorem transition_of_step (h : step s = .next t) : Transition s t := by
  by_cases hb : s.status = .busy
  · exact transition_running hb h
  · cases hs : s.start with
    | true => exact transition_start hb hs h
    | false => exact transition_host hb hs h

end

end Sys2Proof.Machine
end

section
/-! SUPPORT. What the transitions keep: the error flags (R27), the records and `SIDE` (R24, R35), the cursor (R28) and
the whole invariant. -/

namespace Sys2Proof.Machine

/-! ### What a running operation leaves unchanged -/

/-- No step of a running operation but an error changes these. -/
structure ControlSame (s t : State) : Prop where
  cmd : t.cmd = s.cmd
  start : t.start = s.start
  errKind : t.errKind = s.errKind
  errCause : t.errCause = s.errCause
  inputSide : inputSideSame s t

section
variable {s t : State}

theorem Works.controlSame (h : Works s t) : ControlSame s t := by
  cases h <;> exact ⟨rfl, rfl, rfl, rfl, rfl, rfl, rfl, rfl, rfl, rfl⟩

theorem Works.status_eq (h : Works s t) : t.status = s.status := by cases h <;> rfl

theorem Works.side_eq (h : Works s t) : t.side = s.side := by cases h <;> rfl

theorem Works.recordsSame (h : Works s t) : recordsSame s t := by cases h <;> exact ⟨rfl, rfl, rfl⟩

theorem Ends.controlSame (h : Ends s t) : ControlSame s t := by
  cases h <;> exact ⟨rfl, rfl, rfl, rfl, rfl, rfl, rfl, rfl, rfl, rfl⟩

theorem Ends.status_eq (h : Ends s t) : t.status = .done := by cases h <;> rfl

/-- `OUT` of `t` is that of `s` after an append (R67), of no bytes where none is written. -/
def Appends (s t : State) : Prop := ∃ bs, t.out = (s.appended bs).out ∧ t.outLen = (s.appended bs).outLen

theorem Works.appends (h : Works s t) : Appends s t := by
  cases h with
  | bmpFileHeader | lzwEncHit | lzwEncMiss => exact ⟨[], rfl, rfl⟩
  | firstWord | laterWord | encodedToken | decodedToken => exact ⟨_, rfl, rfl⟩

theorem Ends.appends (h : Ends s t) : Appends s t := by
  cases h with
  | bmpParse | lz77Enc | decoder => exact ⟨[], rfl, rfl⟩
  | lzwEnc => exact ⟨_, rfl, rfl⟩

theorem Appends.outputWritten (h : Appends s t) (hs : outputWritten s) : outputWritten t := by
  obtain ⟨bs, hout, hlen⟩ := h
  obtain ⟨out, ho⟩ := Option.isSome_iff_exists.mp hs
  have ht : t.outputBytes = (s.appended bs).outputBytes := by rw [State.outputBytes, hout, hlen]; rfl
  show t.outputBytes.isSome = true
  rw [ht, outputBytes_appended ho]
  rfl

theorem Appends.memoriesCanonical (h : Appends s t) (hinp : t.inp = s.inp) (hs : memoriesCanonical s) :
    memoriesCanonical t := by
  obtain ⟨bs, hout, -⟩ := h
  exact ⟨hinp ▸ hs.1, by rw [hout]; exact Memory.writeBytes_wf hs.2 _ _⟩

/-! ### The error flags (R25, R27) -/

theorem ControlSame.errorFlagsSound (h : ControlSame s t) (hs : errorFlagsSound s) (hsne : s.status ≠ .error)
    (htne : t.status ≠ .error) : errorFlagsSound t := by
  obtain ⟨hkind, hnone, -⟩ := hs
  exact ⟨by rw [h.errKind, h.errCause, hkind], fun _ => h.errCause.trans (hnone hsne), fun e => absurd e htne⟩

theorem errorFlagsSound_raiseError (s : State) {c : ErrCause} (hne : c ≠ .none) :
    errorFlagsSound (s.raiseError c) :=
  ⟨rfl, fun h => absurd rfl h, fun _ => ⟨hne, rfl⟩⟩

theorem Transition.errorFlagsSound (h : Transition s t) (hs : errorFlagsSound s) : errorFlagsSound t := by
  cases h with
  | works hb hw => exact hw.controlSame.errorFlagsSound hs (by simp [hb]) (by simp [hw.status_eq, hb])
  | ends hb he => exact he.controlSame.errorFlagsSound hs (by simp [hb]) (by simp [he.status_eq])
  | raises c _ _ hne => exact errorFlagsSound_raiseError s hne
  | startFails c _ _ _ hne => exact errorFlagsSound_raiseError _ hne
  | starts | saveStarts | loadStarts => exact ⟨rfl, fun _ => rfl, nofun⟩
  | callOver => exact hs

/-! ### The records and `SIDE` (R24, R35, R150, R283) -/

theorem Ends.records_or (h : Ends s t) : recordsSame s t ∨ s.cmd = cmdBmpParse := by
  cases h with
  | bmpParse f hc => exact .inr hc
  | lzwEnc | lz77Enc | decoder => exact .inl ⟨rfl, rfl, rfl⟩

theorem Ends.side_or (h : Ends s t) : t.side = s.side ∨ s.cmd = cmdLzwEnc ∨ s.cmd = cmdLz77Enc := by
  cases h with
  | bmpParse | decoder => exact .inl rfl
  | lzwEnc codes hc => exact .inr (.inl hc)
  | lz77Enc hc => exact .inr (.inr hc)

theorem Transition.records_or (h : Transition s t) :
    recordsSame s t ∨ s.status = .busy ∧ s.cmd = cmdBmpParse ∧ t.status = .done := by
  cases h with
  | works _ hw => exact .inl hw.recordsSame
  | ends hb he => exact he.records_or.imp_right fun hc => ⟨hb, hc, he.status_eq⟩
  | raises | starts | startFails | callOver | saveStarts | loadStarts => exact .inl ⟨rfl, rfl, rfl⟩

theorem Transition.side_or (h : Transition s t) :
    t.side = s.side ∨
      s.status = .busy ∧ (s.cmd = cmdLzwEnc ∨ s.cmd = cmdLz77Enc) ∧ t.status = .done ∨
      s.status ≠ .busy ∧ s.start = false ∧ s.cmpt.phase = .loadHeader ∧ t.cmd = cmdLzwDec := by
  cases h with
  | works _ hw => exact .inl hw.side_eq
  | ends hb he => exact he.side_or.imp_right fun hc => .inl ⟨hb, hc, he.status_eq⟩
  | loadStarts c input side written cmpt hb hs hload hside => exact hside.imp_right fun hc => .inr ⟨hb, hs, hload, hc⟩
  | raises | starts | startFails | callOver | saveStarts => exact .inl rfl

/-! ### The cursor (R28) -/

theorem commonPrefix_le (n : Nat) (as bs : Bytes) : commonPrefix n as bs ≤ bs.length := by
  fun_induction commonPrefix n as bs with
  | case1 n as b bs ih => simpa using ih
  | case2 => simp
  | case3 => simp

/-- A match ends with the input (R224). -/
theorem bestOf_le (tb : Config.TieBreak) (input : Bytes) (pos n : Nat) :
    (bestOf tb input pos n).1 ≤ input.length - pos := by
  induction n with
  | zero => exact Nat.zero_le _
  | succ n ih =>
    have hmatch : matchLen input pos (n + 1) ≤ input.length - pos := by
      rw [← List.length_drop]
      exact commonPrefix_le _ _ _
    simp only [bestOf]
    split
    · exact hmatch
    · exact ih

/-- A token covers no byte behind the input (R226, R227). -/
theorem tokenAt_le (tb : Config.TieBreak) {input : Bytes} {pos : Nat} (hpos : pos < input.length) :
    pos + (tokenAt tb input pos).2 ≤ input.length := by
  have hbest : (bestMatch tb input pos).1 ≤ input.length - pos := bestOf_le tb input pos _
  unfold tokenAt
  dsimp only
  split
  · dsimp only; omega
  · dsimp only; omega

theorem Works.ip_le (h : Works s t) : t.ip ≤ s.inLen := by
  cases h with
  | bmpFileHeader f hc hip hl => exact hl
  | lzwEncHit k hc hip | lzwEncMiss k code hc hip => exact hip
  | firstWord code entry hc hroom | laterWord p bs b hc hroom => exact hroom
  | encodedToken input hc hip hi =>
    rw [← inputBytes_length hi] at hip ⊢
    exact tokenAt_le _ hip
  | decodedToken bs n hc hn hroom => exact hroom

theorem Works.ip_lt (h : Works s t) (htable : s.cmd = cmdLzwDec → TableSound s) : s.ip < t.ip := by
  cases h with
  | bmpFileHeader f hc hip => rw [hip]; exact Nat.succ_pos 13
  | lzwEncHit | lzwEncMiss => exact Nat.lt_succ_self _
  | firstWord code entry hc | laterWord p bs b hc => exact Nat.lt_add_of_pos_right (htable hc).width_pos
  | encodedToken input => exact Nat.lt_add_of_pos_right (tokenAt_advances _ input s.ip)
  | decodedToken bs n hc hn => exact Nat.lt_add_of_pos_right hn

/-! ### The invariant -/

theorem Works.dictSound (h : Works s t) (hc : s.cmd = cmdLzwEnc) (hd : DictSound s) : DictSound t := by
  cases h with
  | lzwEncHit k _ _ hk => exact hd.hit hk
  | lzwEncMiss k code _ _ hk => exact hd.miss hk
  | bmpFileHeader _ hc' | firstWord _ _ hc' | laterWord _ _ _ hc' | encodedToken _ hc' | decodedToken _ _ hc' =>
    exact absurd (hc'.symm.trans hc) (by decide)

theorem Works.tableSound (h : Works s t) (hc : s.cmd = cmdLzwDec) (hd : TableSound s) : TableSound t := by
  cases h with
  | firstWord code entry _ _ hp he => exact hd.firstWord hp (hd.phrasesNonempty _ _ he)
  | laterWord p bs b _ _ hp => exact hd.laterWord hp
  | bmpFileHeader _ hc' | lzwEncHit _ hc' | lzwEncMiss _ _ hc' | encodedToken _ hc' | decodedToken _ _ hc' =>
    exact absurd (hc'.symm.trans hc) (by decide)

theorem Works.bmpCursor (h : Works s t) (hc : s.cmd = cmdBmpParse) : t.ip = Config.bmpFileHdrLen := by
  cases h with
  | bmpFileHeader => rfl
  | lzwEncHit _ hc' | lzwEncMiss _ _ hc' | firstWord _ _ hc' | laterWord _ _ _ hc' | encodedToken _ hc'
  | decodedToken _ _ hc' => exact absurd (hc'.symm.trans hc) (by decide)

/-- Outside an operation the invariant says nothing of the working state. -/
theorem Sound.of_not_busy (hb : s.status ≠ .busy) (hm : memoriesCanonical s) (hf : errorFlagsSound s)
    (ho : outputWritten s) (hs : startSound s) (hc : callSound s) : Sound s :=
  ⟨hm, hf, ho, fun e => absurd e hb, hs, hc, fun e => absurd e hb, fun e => absurd e hb, fun e => absurd e hb⟩

theorem startSound_of_no_start (hs : s.start = false) (hne : s.status ≠ .starting) : startSound s :=
  ⟨fun e => by simp [hs] at e, fun e => absurd e hne⟩

/-- No start is pending while an operation runs. -/
theorem Sound.start_of_busy (h : Sound s) (hb : s.status = .busy) : s.start = false := by
  rw [Bool.eq_false_iff]
  exact fun e => by simpa [hb] using h.starts.mp e

/-- While `CMPT_SAVE` waits for its codec, the operation started or running is an encoder (R273). -/
theorem Sound.saveCodec_encoder (h : Sound s) (hp : s.cmpt.phase = .saveCodec)
    (hactive : s.start = true ∨ s.status = .busy) : s.cmd = cmdLzwEnc ∨ s.cmd = cmdLz77Enc := by
  rcases h.calls.1 hp with ⟨-, hc⟩ | ⟨hs, hd⟩
  · exact hc
  · simp [hs, hd] at hactive

/-- The encoders raise no error (R307, R317). -/
theorem not_encoder_of_raisingCommand {c : BitVec 3} (h : raisingCommand c) : ¬ (c = cmdLzwEnc ∨ c = cmdLz77Enc) := by
  rcases h with rfl | rfl | rfl <;> decide

theorem Sound.works (h : Sound s) (hb : s.status = .busy) (hw : Works s t) : Sound t where
  memories := hw.appends.memoriesCanonical hw.controlSame.inputSide.2.1 h.memories
  flags := hw.controlSame.errorFlagsSound h.flags (by simp [hb]) (by simp [hw.status_eq, hb])
  output := hw.appends.outputWritten h.output
  cursor := fun _ => by
    obtain ⟨-, hinput, hcmd⟩ := h.cursor hb
    obtain ⟨-, hinp, hlen, -⟩ := hw.controlSame.inputSide
    refine ⟨hlen ▸ hw.ip_le, ?_, hw.controlSame.cmd ▸ hcmd⟩
    rw [State.inputBytes, hinp, hlen]
    exact hinput
  starts := by
    show t.start = true ↔ t.status = .starting
    rw [hw.controlSame.start, hw.status_eq]
    exact h.starts
  calls := by
    obtain ⟨-, -, -, -, hcmpt, -⟩ := hw.controlSame.inputSide
    unfold callSound
    rw [hw.controlSame.start, hw.controlSame.cmd, hw.status_eq, hcmpt]
    exact h.calls
  bmpCursor := fun _ hc => .inr (hw.bmpCursor (hw.controlSame.cmd ▸ hc))
  dict := fun _ hc =>
    have hcs : s.cmd = cmdLzwEnc := hw.controlSame.cmd ▸ hc
    hw.dictSound hcs (h.dict hb hcs)
  table := fun _ hc =>
    have hcs : s.cmd = cmdLzwDec := hw.controlSame.cmd ▸ hc
    hw.tableSound hcs (h.table hb hcs)

theorem Sound.ends (h : Sound s) (hb : s.status = .busy) (he : Ends s t) : Sound t := by
  have hstart : t.start = false := he.controlSame.start.trans (h.start_of_busy hb)
  have hdone := he.status_eq
  exact .of_not_busy (by simp [hdone])
    (he.appends.memoriesCanonical he.controlSame.inputSide.2.1 h.memories)
    (he.controlSame.errorFlagsSound h.flags (by simp [hb]) (by simp [hdone]))
    (he.appends.outputWritten h.output) (startSound_of_no_start hstart (by simp [hdone]))
    ⟨fun _ => .inr ⟨hstart, hdone⟩, fun _ => .inr (by simp [hdone])⟩

/-- An error keeps the invariant; `OUT_LEN` is 0, so nothing is asked of `OUT`. -/
theorem Sound.raiseError {c : ErrCause} (hm : memoriesCanonical s) (hne : c ≠ .none) (hstart : s.start = false)
    (hsave : s.cmpt.phase ≠ .saveCodec) : Sound (s.raiseError c) :=
  .of_not_busy nofun hm (errorFlagsSound_raiseError s hne) rfl (startSound_of_no_start hstart nofun)
    ⟨fun hp => absurd hp hsave, fun _ => .inr nofun⟩

theorem Sound.raises {c : ErrCause} (h : Sound s) (hb : s.status = .busy) (hc : raisingCommand s.cmd)
    (hne : c ≠ .none) : Sound (s.raiseError c) :=
  .raiseError h.memories hne (h.start_of_busy hb) fun hp =>
    not_encoder_of_raisingCommand hc (h.saveCodec_encoder hp (.inr hb))

theorem Sound.startFails {c : ErrCause} (h : Sound s) (hs : s.start = true) (hc : s.cmd = cmdLzwDec)
    (hne : c ≠ .none) : Sound ((s.started cmdLzwDec).raiseError c) :=
  .raiseError (s := s.started cmdLzwDec) h.memories hne rfl fun hp =>
    not_encoder_of_raisingCommand (.inr (.inl hc)) (h.saveCodec_encoder hp (.inl hs))

theorem Sound.started {c : BitVec 3} (h : Sound s) (hs : s.start = true) (hc : s.cmd = c)
    (hop : plainCommand c ∨ c = cmdLzwDec ∧ s.side.toNat ∈ Config.lzwWidths ∧ s.inLen % s.side.toNat = 0)
    (hi : s.inputBytes.isSome = true) : Sound (s.started c) where
  memories := h.memories
  flags := ⟨rfl, fun _ => rfl, nofun⟩
  output := rfl
  cursor := fun _ => by
    refine ⟨Nat.zero_le _, hi, ?_⟩
    rcases hop with (hc | hc | hc | hc) | ⟨hc, -⟩ <;> simp [hc]
  starts := startSound_of_no_start rfl nofun
  calls := ⟨fun hp => .inl ⟨.inr rfl, hc ▸ h.saveCodec_encoder hp (.inl hs)⟩, fun _ => .inr nofun⟩
  bmpCursor := fun _ _ => .inl rfl
  dict := fun _ hc => by
    obtain rfl : c = cmdLzwEnc := hc
    exact dictSound_started s
  table := fun _ hc => by
    obtain rfl : c = cmdLzwDec := hc
    obtain ⟨-, hw, hl⟩ := hop.resolve_left fun hplain => plainCommand_ne_lzwDec hplain rfl
    exact tableSound_started hw hl

/-- The host layer's start of a codec, whatever it leaves in `SIDE`. -/
theorem Sound.codecStarted {c : BitVec 3} {input : Bytes} {side : BitVec 8} {written : Bool} {cmpt : Cmpt}
    (h : Sound s) (hsave : cmpt.phase = .saveCodec → c = cmdLzwEnc ∨ c = cmdLz77Enc) :
    Sound { s.codecStarted c input with side := side, sideWritten := written, cmpt := cmpt } :=
  .of_not_busy nofun ⟨Memory.writeBytes_wf h.memories.1 _ _, h.memories.2⟩ ⟨rfl, fun _ => rfl, nofun⟩ rfl
    ⟨fun _ => rfl, fun _ => rfl⟩ ⟨fun hp => .inl ⟨.inl rfl, hsave hp⟩, fun _ => .inl rfl⟩

theorem Sound.callOver {cmpt : Cmpt} {draws : Nat} (h : Sound s) (hb : s.status ≠ .busy) (hp : cmpt.phase = .idle) :
    Sound { s with cmpt := cmpt, draws := draws } :=
  .of_not_busy hb h.memories h.flags h.output h.starts
    ⟨fun e => by simp [hp] at e, fun e => by simp [hp] at e⟩

theorem Transition.sound (h : Transition s t) (hs : Sound s) : Sound t := by
  cases h with
  | works hb hw => exact hs.works hb hw
  | ends hb he => exact hs.ends hb he
  | raises c hb hc hne => exact hs.raises hb hc hne
  | starts c _ hstart hc hop hi => exact hs.started hstart hc hop hi
  | startFails c _ hstart hc hne => exact hs.startFails hstart hc hne
  | callOver cmpt draws hb _ hp => exact hs.callOver hb hp
  | saveStarts c input cmpt _ _ hc => exact hs.codecStarted fun _ => hc
  | loadStarts c input side written cmpt _ _ _ _ hp => exact hs.codecStarted fun e => by simp [hp] at e

end

/-- Settles O17: by the transitions; an error sets its flags, a start clears them. -/
theorem errorFlagsSoundKept : Obligations.ErrorFlagsSoundKept :=
  fun _ _ hs h => (transition_of_step h).errorFlagsSound hs

/-- Settles O56: by the transitions; only an end or the host layer's start of a decoder writes there. -/
theorem recordsAndSideChangeOnlyThere : Obligations.RecordsAndSideChangeOnlyThere := by
  intro s t h
  have htr := transition_of_step h
  refine ⟨fun hne => htr.records_or.resolve_left fun ⟨hfile, hinfo, hwritten⟩ => ?_, htr.side_or.resolve_left⟩
  rcases hne with hne | hne | hne
  · exact hne hfile
  · exact hne hinfo
  · exact hne hwritten

/-- Settles O57: of the transitions from a running operation only `Works` leaves it running. -/
theorem cursorAdvances : Obligations.CursorAdvances := by
  intro s t hs hb h hbt
  cases transition_of_step h with
  | works _ hw => exact ⟨hw.ip_lt (hs.table hb), hw.ip_le⟩
  | ends _ he => simp [he.status_eq] at hbt
  | raises => cases hbt
  | starts _ hnb | startFails _ hnb | callOver _ _ hnb | saveStarts _ _ _ hnb | loadStarts _ _ _ _ _ hnb =>
    exact absurd hb hnb

/-- Settles O53: by the transitions (`Transition.sound`). -/
theorem soundKept : Obligations.SoundKept :=
  fun _ _ hs h => (transition_of_step h).sound hs

/-- Settles O9: no operation runs at reset, so the working state is free. -/
theorem resetIsSound : Obligations.ResetIsSound :=
  .of_not_busy nofun reset_memories_wf ⟨rfl, fun _ => rfl, nofun⟩ rfl ⟨nofun, nofun⟩ ⟨nofun, nofun⟩

end Sys2Proof.Machine
end

section
/-! SUPPORT. No step of a sound state faults: what each micro-step reads has been written or bound (R42, R175, R189,
R246). -/

namespace Sys2Proof.Machine

theorem andThen_ne_fault {o : Outcome} {f : State → Outcome} (ho : ∀ r, o ≠ .fault r)
    (hf : ∀ s r, o = .next s → f s ≠ .fault r) (r : Fault) : andThen o f ≠ .fault r := fun e => by
  rcases andThen_eq_fault.mp e with h | ⟨s, hs, h⟩
  · exact ho r h
  · exact hf s r hs h

theorem emit_andThen_ne_fault (bs : Bytes) (s : State) (g : State → State) (r : Fault) :
    andThen (emit bs s) (fun t => .next (g t)) ≠ .fault r :=
  andThen_ne_fault (emit_ne_fault bs s) (fun _ _ _ e => by cases e) r

section
variable {s : State}

/-! ### The dictionary codec -/

theorem lzwFinish_ne_fault (codes : List Nat) (s : State) (r : Fault) : lzwFinish codes s ≠ .fault r := by
  unfold lzwFinish
  split
  · nofun
  · exact emit_andThen_ne_fault _ s _ r

theorem DictSound.toPrefixBound (h : DictSound s) : PrefixBound s.dict s.w :=
  ⟨h.prefixBound, fun b => by rw [h.seedsBound]; rfl⟩

theorem lzwEncStep_ne_fault (hi : s.inputBytes.isSome = true) (hd : DictSound s) (r : Fault) :
    lzwEncStep s ≠ .fault r := by
  have hbound := hd.toPrefixBound
  by_cases hip : s.ip < s.inLen
  · have hread : (s.inp.read s.ip).isSome = true := by
      simpa using Memory.readBytes_isSome.mp hi s.ip hip
    obtain ⟨k, hk⟩ := Option.isSome_iff_exists.mp hread
    cases hc : dictLookup s.dict (s.w ++ [k]) with
    | some code =>
      rw [lzwEncStep_hit hip hk (by simp [hc])]
      nofun
    | none =>
      rw [lzwEncStep_miss hip hk hc (hbound.lookup_of_miss hc)]
      split <;> nofun
  · rw [lzwEncStep_end (Nat.le_of_not_lt hip) hbound]
    exact lzwFinish_ne_fault _ s r

theorem TableSound.toTableBound (h : TableSound s) : TableBound s.table s.nextCode s.prev where
  seedsBelow := h.firstCode_le
  bound := fun c hc => by
    obtain ⟨p, hp⟩ := Option.isSome_iff_exists.mp ((h.boundBelow c).mpr hc)
    obtain ⟨b, bs, rfl⟩ := List.exists_cons_of_ne_nil (h.phrasesNonempty c p hp)
    exact ⟨b, bs, hp⟩
  prevNonempty := h.prevNonempty

theorem emitEntry_ne_fault (entry : Phrase) (s : State) (r : Fault) : emitEntry entry s ≠ .fault r :=
  emit_andThen_ne_fault entry s _ r

theorem bindEntry_emitEntry_ne_fault (p : Phrase) (b : Byte) (bs : Phrase) (s : State) (r : Fault) :
    andThen (bindEntry p (b :: bs) s) (emitEntry (b :: bs)) ≠ .fault r := by
  refine andThen_ne_fault (fun r => ?_) (fun t r _ => emitEntry_ne_fault _ t r) r
  rw [bindEntry_cons]
  split <;> nofun

theorem codeWord_ne_fault (h : TableBound s.table s.nextCode s.prev) (code : Nat) (r : Fault) :
    codeWord code s ≠ .fault r := by
  cases hp : s.prev with
  | none =>
    by_cases hlt : code < Config.lzwSeedCount
    · obtain ⟨b, bs, hl⟩ := h.bound code (Nat.lt_of_lt_of_le hlt h.seedsBelow)
      simp only [codeWord, hp, if_pos hlt, hl]
      exact emitEntry_ne_fault _ s r
    · simp only [codeWord, hp, if_neg hlt, raise_eq]
      nofun
  | some p =>
    by_cases hlt : code < s.nextCode
    · obtain ⟨b, bs, hl⟩ := h.bound code hlt
      rw [codeWord_registered hp hlt hl]
      exact bindEntry_emitEntry_ne_fault p b bs s r
    · by_cases heq : code = s.nextCode
      · obtain ⟨b, ps, rfl⟩ := List.exists_cons_of_ne_nil fun e => h.prevNonempty (e ▸ hp)
        simp only [codeWord, hp, if_neg hlt, if_pos heq]
        exact bindEntry_emitEntry_ne_fault (b :: ps) b (ps ++ [b]) s r
      · simp only [codeWord, hp, if_neg hlt, if_neg heq, raise_eq]
        nofun

theorem lzwDecStep_ne_fault {input : Bytes} (hi : s.inputBytes = some input) (hd : TableSound s) (r : Fault) :
    lzwDecStep s ≠ .fault r := by
  unfold lzwDecStep
  split
  · rw [withBytes_eq hi]
    split
    · nofun
    · exact codeWord_ne_fault hd.toTableBound _ r
  · nofun

/-! ### The window codec -/

theorem lz77EncStep_ne_fault {input : Bytes} (hi : s.inputBytes = some input) (r : Fault) :
    lz77EncStep s ≠ .fault r := by
  unfold lz77EncStep
  split
  · simp only [hi]
    exact emit_andThen_ne_fault _ s _ r
  · nofun

/-- The copy reads what stands behind the decode cursor, and its own appends keep that written (R246). -/
theorem copyBytes_ne_fault {dist n : Nat} (ho : outputWritten s) (hpos : 1 ≤ dist) (hle : dist ≤ s.outLen)
    (r : Fault) : copyBytes dist n s ≠ .fault r := by
  induction n generalizing s r with
  | zero => nofun
  | succ n ih =>
    have hread : (s.out.read (s.outLen - dist)).isSome = true := by
      simpa using Memory.readBytes_isSome.mp ho (s.outLen - dist) (by omega)
    obtain ⟨b, hb⟩ := Option.isSome_iff_exists.mp hread
    simp only [copyBytes, hb]
    refine andThen_ne_fault (emit_ne_fault [b] s) (fun t r ht => ?_) r
    obtain ⟨-, rfl⟩ := emit_eq_next.mp ht
    have happ : Appends s (s.appended [b]) := ⟨[b], rfl, rfl⟩
    have hle' : dist ≤ (s.appended [b]).outLen := by rw [State.appended_outLen]; omega
    exact ih (happ.outputWritten ho) hle' r

theorem litToken_ne_fault (v : Byte) (s : State) (r : Fault) : litToken v s ≠ .fault r := by
  unfold litToken
  split
  · nofun
  · exact emit_andThen_ne_fault _ s _ r

theorem matchToken_ne_fault {d l : Nat} (ho : outputWritten s) (r : Fault) : matchToken d l s ≠ .fault r := by
  unfold matchToken
  split
  · nofun
  · split
    · nofun
    · exact andThen_ne_fault (copyBytes_ne_fault ho (by omega) (by omega)) (fun _ _ _ e => by cases e) r

theorem lz77DecStep_ne_fault {input : Bytes} (hi : s.inputBytes = some input) (ho : outputWritten s) (r : Fault) :
    lz77DecStep s ≠ .fault r := by
  by_cases hip : s.ip < s.inLen
  · rw [lz77DecStep_slice hi hip]
    cases readToken (slice input s.ip 4) with
    | lit v rest => exact litToken_ne_fault v s r
    | mtch d l rest => exact matchToken_ne_fault ho r
    | badFlag | truncated => nofun
  · rw [lz77DecStep_end (Nat.le_of_not_lt hip)]
    nofun

/-! ### `BMP_PARSE` -/

theorem bmpParse_first_ne_fault {input : Bytes} (hi : s.inputBytes = some input) (hip : s.ip = 0) (r : Fault) :
    bmpParseStep s ≠ .fault r := by
  by_cases hlen : s.inLen < Config.bmpFileHdrLen
  · rw [bmpParseStep_short hip hlen]
    nofun
  · rw [bmpParseStep_file hi hip hlen, readFileHeader, if_neg hlen]
    split <;> nofun

theorem bmpParse_second_ne_fault {input : Bytes} (hi : s.inputBytes = some input) (hip : s.ip = 14) (r : Fault) :
    bmpParseStep s ≠ .fault r := by
  rw [bmpParseStep_info hi hip, readInfoHeader]
  split <;> nofun

/-! ### The whole machine -/

theorem Sound.running_safe (h : Sound s) (hb : s.status = .busy) (r : Fault) : step s ≠ .fault r := by
  obtain ⟨-, hin, hcmd⟩ := h.cursor hb
  obtain ⟨input, hi⟩ := Option.isSome_iff_exists.mp hin
  rcases hcmd with hc | hc | hc | hc | hc
  · rcases h.bmpCursor hb hc with hip | hip
    · rw [step_bmpParse_file hb hc hi hip]
      exact bmpParse_first_ne_fault hi hip r
    · rw [step_bmpParse_info hb hc hi hip]
      exact bmpParse_second_ne_fault hi hip r
  · rw [step_lzwEnc hb hc]
    exact lzwEncStep_ne_fault hin (h.dict hb hc) r
  · rw [step_lzwDec hb hc hi (h.table hb hc).widthLegal]
    exact lzwDecStep_ne_fault hi (h.table hb hc) r
  · rw [step_lz77Enc hb hc]
    exact lz77EncStep_ne_fault hi r
  · rw [step_lz77Dec hb hc hi]
    exact lz77DecStep_ne_fault hi h.output r

theorem lzwDecChecks_ne_fault (s : State) (r : Fault) : lzwDecChecks s ≠ .fault r := by
  unfold lzwDecChecks
  split
  · split <;> nofun
  · split <;> nofun

theorem start_safe (hb : s.status ≠ .busy) (hs : s.start = true) (r : Fault) : step s ≠ .fault r := by
  rw [step_start hb hs]
  rcases command_cases s.cmd with hc | hc | hc
  · rw [exec_plain_not_busy hc hb]
    exact launch_ne_fault _ s r
  · rw [hc]
    show exec .lzwDec s ≠ _
    rw [exec_lzwDec_not_busy hb]
    exact andThen_ne_fault (launch_ne_fault _ s) (fun t r _ => lzwDecChecks_ne_fault t r) r
  · rw [exec_reserved hc]
    nofun

theorem loadFromHeader_ne_fault (h : CmptFields) (s : State) (r : Fault) : loadFromHeader h s ≠ .fault r := by
  unfold loadFromHeader
  repeat' split
  all_goals nofun

theorem saveStart_ne_fault (s : State) (r : Fault) : saveStart s ≠ .fault r := by
  unfold saveStart
  split <;> nofun

/-- The host layer reads the result at `DONE` only (R70), where all of it is written. -/
theorem writeFile_ne_fault {h : CmptFields} (hd : s.status = .done) (ho : outputWritten s) (r : Fault) :
    writeFile h s ≠ .fault r := by
  obtain ⟨out, hout⟩ := Option.isSome_iff_exists.mp ho
  simp only [writeFile, if_pos hd, hout]
  nofun

theorem loadFinish_ne_fault (hst : s.status = .done ∨ s.status = .error) (ho : outputWritten s) (r : Fault) :
    loadFinish s ≠ .fault r := by
  obtain ⟨out, hout⟩ := Option.isSome_iff_exists.mp ho
  rcases hst with hst | hst
  · simp only [loadFinish, hst, hout]
    split <;> nofun
  · simp only [loadFinish, hst]
    nofun

theorem Sound.host_safe (h : Sound s) (hb : s.status ≠ .busy) (hs : s.start = false) (r : Fault) :
    step s ≠ .fault r := by
  rw [step_host hb hs, fetchHostLayer]
  cases hp : s.cmpt.phase with
  | idle => nofun
  | saveStart => exact saveStart_ne_fault s r
  | saveCodec =>
    have hdone : s.status = .done := by
      rcases h.calls.1 hp with ⟨hactive, -⟩ | ⟨-, hd⟩
      · simp [hs, hb] at hactive
      · exact hd
    dsimp only
    split
    · rw [runFetched_instr, exec_cmptHdr, (execCmptHdr_host hb hs).2 hp]
      exact writeFile_ne_fault hdone h.output r
    · nofun
  | loadHeader =>
    dsimp only
    split
    · rename_i i rest hd
      obtain ⟨f, rfl⟩ := decodeCmpt_unit hd
      rw [runFetched_instr, exec_cmptHdr, (execCmptHdr_host hb hs).1 hp]
      exact loadFromHeader_ne_fault f s r
    · nofun
    · nofun
  | loadCodec =>
    have hidle : s.status ≠ .idle := (h.calls.2 hp).resolve_left (by simp [hs])
    have hstarting : s.status ≠ .starting := fun e => by simpa [hs] using h.starts.mpr e
    refine loadFinish_ne_fault ?_ h.output r
    cases hst : s.status with
    | idle => exact absurd hst hidle
    | starting => exact absurd hst hstarting
    | busy => exact absurd hst hb
    | done => exact .inl rfl
    | error => exact .inr rfl

end

/-- Settles O54: a running operation, a start taken up, and the host layer. -/
theorem soundStatesAreSafe : Obligations.SoundStatesAreSafe := by
  intro s h r
  by_cases hb : s.status = .busy
  · exact h.running_safe hb r
  · cases hs : s.start with
    | true => exact start_safe hb hs r
    | false => exact h.host_safe hb hs r

end Sys2Proof.Machine
end

section
/-! SUPPORT. The start of an operation from a well-formed launch (R341, R342), reset and idling (R330, R340), and the
host's moves and reads (R70, R345). -/

namespace Sys2Proof.Machine

section
variable {s : State} {c : BitVec 3}

/-! ### A well-formed launch -/

theorem LaunchPremises.launchRefusal_eq_none (h : LaunchPremises c s)
    (hd : c = cmdLzwEnc ∨ c = cmdLzwDec → dictFits s.params 255 = true) : launchRefusal c s = none := by
  have hin : s.inputBytes.isSome = true :=
    Memory.readBytes_isSome.mpr fun a ha => by simpa using h.loaded a ha
  exact Machine.launchRefusal_eq_none.mpr
    ⟨h.length, h.disjoint, Option.isSome_iff_ne_none.mp hin, h.width, hd⟩

theorem LaunchPremises.launch_eq (h : LaunchPremises c s)
    (hd : c = cmdLzwEnc ∨ c = cmdLzwDec → dictFits s.params 255 = true) : launch c s = .next (s.started c) :=
  launch_eq_next.mpr ⟨h.launchRefusal_eq_none hd, rfl⟩

/-- The seeds of `DICT` are the single bytes and nothing else (R171). -/
theorem seededDict_seedDict : seededDict seedDict := by
  have hlong : ∀ p : Phrase, p.length ≠ 1 → dictLookup seedDict p = none := fun p hp => by
    rw [← Option.not_isSome_iff_eq_none, dictLookup_isSome, mem_seedDict_keys]
    rintro ⟨b, rfl⟩
    exact hp rfl
  intro p
  match p with
  | [] => exact hlong [] (by simp)
  | [b] => exact dictLookup_seed b
  | a :: b :: p => exact hlong (a :: b :: p) (by simp)

theorem started_atStart (c : BitVec 3) (s : State) : atStart c s (s.started c) := rfl

/-- Settles O10: a launch without a width is `launch`, which a well-formed one passes. -/
theorem launchCompletes : Obligations.LaunchCompletes := by
  intro i c s hic hb hprem hdict
  obtain ⟨rfl, hplain⟩ : i = decodeCommand c ∧ plainCommand c := by
    simp only [List.mem_cons, Prod.mk.injEq, List.not_mem_nil, or_false] at hic
    rcases hic with ⟨rfl, rfl⟩ | ⟨rfl, rfl⟩ | ⟨rfl, rfl⟩ | ⟨rfl, rfl⟩
    · exact ⟨rfl, .inl rfl⟩
    · exact ⟨rfl, .inr (.inl rfl)⟩
    · exact ⟨rfl, .inr (.inr (.inl rfl))⟩
    · exact ⟨rfl, .inr (.inr (.inr rfl))⟩
  have hdec := plainCommand_ne_lzwDec hplain
  refine ⟨s.started c, ?_, started_atStart c s, ?_, ?_, rfl, ?_⟩
  · rw [exec_plain_not_busy hplain hb, hprem.launch_eq fun e => hdict (e.resolve_right hdec)]
  · rw [State.started_table, if_neg hdec]
  · rw [State.started_width, if_neg hdec]
  · rw [State.started_dict]
    split
    · exact seededDict_seedDict
    · rfl

/-- Settles O14: the decoder's table of commands, and the refusal of the three reserved ones at a start. -/
theorem reservedCommandsAreRefused : Obligations.ReservedCommandsAreRefused :=
  ⟨rfl, rfl, rfl, rfl, rfl, fun _ => ⟨rfl, rfl, rfl⟩, fun _ _ hs hc => step_reserved rfl hc (.inr hs)⟩

/-! ### Reset and idling -/

theorem step_idle (hb : s.status ≠ .busy) (hs : s.start = false) (hp : s.cmpt.phase = .idle) : step s = .next s := by
  rw [step_host hb hs, fetchHostLayer, hp]
  rfl

/-- Settles O8: the fields of the reset state, and that a step without an operation, a start or a call does nothing. -/
theorem resetAndIdle : Obligations.ResetAndIdle :=
  ⟨rfl, rfl, rfl, rfl, fun _ => ⟨rfl, rfl⟩, rfl, rfl, fun _ => step_idle⟩

/-! ### The host's reads (R70) -/

theorem hostReads_not_done (h : s.status ≠ .done) :
    hostReadOut s = .error .readNotPermitted ∧ hostReadOutLen s = .error .readNotPermitted ∧
      hostReadSide s = .error .readNotPermitted ∧ hostReadRecords s = .error .readNotPermitted :=
  ⟨if_neg h, if_neg h, if_neg h, if_neg h⟩

theorem hostReads_done (h : s.status = .done) :
    hostReadOutLen s = .ok s.outLen ∧ hostReadSide s = .ok s.side ∧
      (s.recordsWritten = true → hostReadRecords s = .ok (s.bmpFile, s.bmpInfo)) ∧
      ∀ bs, s.outputBytes = some bs → hostReadOut s = .ok bs :=
  ⟨if_pos h, if_pos h, fun hw => (if_pos h).trans (if_pos hw), fun bs hbs => by simp [hostReadOut, h, hbs]⟩

theorem hostReadError_not_error (h : s.status ≠ .error) : hostReadError s = .error .readNotPermitted := if_neg h

theorem hostReadError_error (h : s.status = .error) : hostReadError s = .ok (s.errKind.bits, s.errCause.bits) :=
  if_pos h

/-! ### The host's moves (R345) -/

/-- The host has no move while an operation runs or is started, or during a call (R26, D34). -/
theorem hostMayMove_eq_false
    (h : s.status = .busy ∨ s.status = .starting ∨ s.start = true ∨ s.cmpt.phase ≠ .idle) :
    s.hostMayMove = false := by
  rw [Bool.eq_false_iff]
  intro hmay
  obtain ⟨⟨hb, hst⟩, hs, hp⟩ := hostMayMove_iff.mp hmay
  rcases h with h | h | h | h
  · exact hb h
  · exact hst h
  · simp [hs] at h
  · exact h hp

theorem hostMove_refused (h : s.hostMayMove = false) (t : State) : hostMove s t = .refused .hostMoveWhileBusy := by
  simp [hostMove, h]

theorem hostMove_allowed (h : s.hostMayMove = true) (t : State) : hostMove s t = .next t := if_pos h

/-- Every move of the host is refused where it may not move. -/
theorem hostMoves_refused (h : s.hostMayMove = false) (bs : Bytes) (v : BitVec 8) (c : BitVec 3) (w ht b : Nat)
    (px : Bytes) (alg : Nat) (file : Bytes) :
    hostLoadInput bs s = .refused .hostMoveWhileBusy ∧ hostWriteSide v s = .refused .hostMoveWhileBusy ∧
      hostWriteCmd c s = .refused .hostMoveWhileBusy ∧ hostStart s = .refused .hostMoveWhileBusy ∧
      hostCallSave w ht b px alg s = .refused .hostMoveWhileBusy ∧
      hostCallLoad file s = .refused .hostMoveWhileBusy :=
  ⟨hostMove_refused h _, hostMove_refused h _, hostMove_refused h _, by simp [hostStart, h], hostMove_refused h _,
    hostMove_refused h _⟩

/-- Loading the input writes its bytes from address 0 on and leaves those beyond it. -/
theorem hostLoadInput_allowed (h : s.hostMayMove = true) (bs : Bytes) :
    ∃ t, hostLoadInput bs s = .next t ∧ t = { s with inp := t.inp, inLen := bs.length } ∧
      ∀ a, t.inp.read a = if a < bs.length then bs[a]? else s.inp.read a := by
  refine ⟨_, hostMove_allowed h _, rfl, fun a => ?_⟩
  simp [Memory.read_writeBytes]

/-- Settles O58: the reads by `STATUS`, then the moves where there is none and where there is one. -/
theorem hostAccess : Obligations.HostAccess := by
  intro s
  refine ⟨hostReads_not_done, hostReads_done, hostReadError_not_error, hostReadError_error,
    fun bs v c w h b px alg file hno => hostMoves_refused (hostMayMove_eq_false hno) bs v c w h b px alg file,
    fun bs v c w h b px alg file hb hst hs hp => ?_⟩
  have hmay : s.hostMayMove = true := hostMayMove_iff.mpr ⟨⟨hb, hst⟩, hs, hp⟩
  exact ⟨hostMove_allowed hmay _, hostMove_allowed hmay _, hostMove_allowed hmay _, hostMove_allowed hmay _,
    fun t ht => (hostStart_eq_next ht).2.2, hostLoadInput_allowed hmay bs⟩

/-! ### The host's start (R26) -/

/-- The launch of `LZW_DEC` after its premises: the first state or an error, never a refusal under the default policy or
with a legal width (R186, R187). -/
theorem lzwDecChecks_answers (hw : s.width ∈ Config.lzwWidths ∨ s.params.widthPolicy = .fault) :
    ∃ u, lzwDecChecks s = .next u ∧ (u = s ∨ u.status = .error) := by
  by_cases hlegal : s.width ∈ Config.lzwWidths
  · by_cases hl : s.inLen % s.width = 0
    · exact ⟨s, lzwDecChecks_pass hlegal hl, .inl rfl⟩
    · exact ⟨_, lzwDecChecks_badLength hlegal hl, .inr rfl⟩
  · exact ⟨_, lzwDecChecks_badWidth_fault hlegal (hw.resolve_left hlegal), .inr rfl⟩

/-- A well-formed launch answers, with the operation running or with the error of `LZW_DEC`'s checks. -/
theorem LaunchPremises.exec_answers (h : LaunchPremises c s) (hb : s.status ≠ .busy)
    (hd : c = cmdLzwEnc ∨ c = cmdLzwDec → dictFits s.params 255 = true)
    (hw : c = cmdLzwDec → s.side.toNat ∈ Config.lzwWidths ∨ s.params.widthPolicy = .fault) :
    ∃ u, exec (decodeCommand c) s = .next u ∧ (u.status = .busy ∨ c = cmdLzwDec ∧ u.status = .error) := by
  rcases command_cases c with hc | rfl | hc
  · exact ⟨_, (exec_plain_not_busy hc hb).trans (h.launch_eq hd), .inl rfl⟩
  · obtain ⟨u, hu, hst⟩ := lzwDecChecks_answers (s := s.started cmdLzwDec) (hw rfl)
    refine ⟨u, ?_, hst.imp (fun e => by rw [e]; rfl) fun e => ⟨rfl, e⟩⟩
    show exec .lzwDec s = _
    rw [exec_lzwDec_not_busy hb, h.launch_eq hd, andThen_next, hu]
  · obtain ⟨hlow, hhigh⟩ := h.command
    rcases hc with rfl | rfl | rfl
    · exact absurd hlow (by decide)
    · exact absurd hhigh (by decide)
    · exact absurd hhigh (by decide)

/-- The premises of a launch do not depend on what the host's start changes. -/
theorem LaunchPremises.starting (h : LaunchPremises c s) : LaunchPremises c s.starting :=
  ⟨h.command, h.length, h.loaded, h.disjoint, h.width⟩

theorem hostStart_of_exec {u : State} (hmay : s.hostMayMove = true) (h : exec (decodeCommand s.cmd) s = .next u) :
    hostStart s = .next s.starting := by
  rw [hostStart, if_pos hmay, h, andThen_next]

theorem hostStart_of_refused {r : Refusal} (hmay : s.hostMayMove = true)
    (h : exec (decodeCommand s.cmd) s = .refused r) : hostStart s = .refused r := by
  rw [hostStart, if_pos hmay, h, andThen_refused]

end

/-- Settles O60: the launch answers both at the host's move and at the step that takes the start up; while `STATUS`
reads 1 every read and every move is refused. -/
theorem hostStartSetsBusy : Obligations.HostStartSetsBusy := by
  refine ⟨fun s hb hst hs hp => ?_, fun s bs v c w h b alg px file hread => ?_⟩
  · have hmay : s.hostMayMove = true := hostMayMove_iff.mpr ⟨⟨hb, hst⟩, hs, hp⟩
    refine ⟨fun hprem hd hw => ?_, fun r => hostStart_of_refused hmay⟩
    obtain ⟨u, hu, -⟩ := hprem.exec_answers hb hd hw
    have hstep : step s.starting = exec (decodeCommand s.cmd) s.starting := step_start nofun rfl
    obtain ⟨v, hv, hend⟩ := hprem.starting.exec_answers (s := s.starting) nofun hd hw
    refine ⟨s.starting, hostStart_of_exec hmay hu, rfl, rfl, hstep, v, hstep.trans hv, ?_⟩
    exact hend.imp_left fun hbusy => Status.bits_eq_one.mpr (.inl hbusy)
  · have hbusy : s.status = .busy ∨ s.status = .starting := Status.bits_eq_one.mp hread
    have hdone : s.status ≠ .done := by rcases hbusy with e | e <;> simp [e]
    have herror : s.status ≠ .error := by rcases hbusy with e | e <;> simp [e]
    obtain ⟨hout, hlen, hside, hrecords⟩ := hostReads_not_done hdone
    have hno : s.hostMayMove = false := hostMayMove_eq_false (hbusy.imp_right .inl)
    exact ⟨hout, hlen, hside, hrecords, hostReadError_not_error herror, hostMoves_refused hno bs v c w h b px alg file⟩

end Sys2Proof.Machine
end

section
/-! SUPPORT. The byte spaces along a step (R60, R67): the canonical form is kept, and a running operation writes `OUT`
only by append. -/

namespace Sys2Proof.Machine

section
variable {s t : State}

/-! ### The canonical form -/

/-- `IN` is written only where the host layer loads it, `OUT` only by append. -/
theorem Transition.memoriesCanonical (h : Transition s t) (hs : memoriesCanonical s) : memoriesCanonical t := by
  cases h with
  | works _ hw => exact hw.appends.memoriesCanonical hw.controlSame.inputSide.2.1 hs
  | ends _ he => exact he.appends.memoriesCanonical he.controlSame.inputSide.2.1 hs
  | saveStarts | loadStarts => exact ⟨Memory.writeBytes_wf hs.1 _ _, hs.2⟩
  | raises | starts | startFails | callOver => exact hs

/-! ### A running operation -/

/-- What stands outside the appended bytes of `OUT` stays (R67). -/
theorem Appends.outside_same (h : Appends s t) :
    s.outLen ≤ t.outLen ∧ ∀ a, a < s.outLen ∨ t.outLen ≤ a → t.out.read a = s.out.read a := by
  obtain ⟨bs, hout, hlen⟩ := h
  rw [State.appended_outLen] at hlen
  refine ⟨by omega, fun a ha => ?_⟩
  rw [hout]
  exact read_out_appended s bs (by omega)

/-- A step of a running operation raises an error, or it appends. -/
theorem Transition.raises_or_appends (h : Transition s t) (hb : s.status = .busy) :
    (∃ c, t = s.raiseError c) ∨ t.status ≠ .error ∧ inputSideSame s t ∧ Appends s t := by
  cases h with
  | works _ hw => exact .inr ⟨by simp [hw.status_eq, hb], hw.controlSame.inputSide, hw.appends⟩
  | ends _ he => exact .inr ⟨by simp [he.status_eq], he.controlSame.inputSide, he.appends⟩
  | raises c => exact .inl ⟨c, rfl⟩
  | starts _ hnb | startFails _ hnb | callOver _ _ hnb | saveStarts _ _ _ hnb | loadStarts _ _ _ _ _ hnb =>
    exact absurd hb hnb

end

/-- Settles O52: by the transitions (`Transition.memoriesCanonical`). -/
theorem memoryCanonicalKept : Obligations.MemoryCanonicalKept :=
  fun _ _ hs h => (transition_of_step h).memoriesCanonical hs

/-- Settles O55: an error leaves `OUT` as it is, and any other step of a running operation appends. -/
theorem engineWritesOnlyByAppend : Obligations.EngineWritesOnlyByAppend := by
  intro s t hb h
  rcases (transition_of_step h).raises_or_appends hb with ⟨c, rfl⟩ | ⟨hne, hsame, happ⟩
  · exact ⟨rfl, rfl, rfl, rfl, rfl, .inl ⟨rfl, rfl⟩⟩
  · obtain ⟨hparams, hinp, hlen, hoverlap, hcmpt, -⟩ := hsame
    exact ⟨hinp, hlen, hparams, hoverlap, hcmpt, .inr ⟨hne, happ.outside_same⟩⟩

end Sys2Proof.Machine
end

section
/-! SUPPORT. The worst-case output lengths of the four codec operations (R62). -/

namespace Sys2Proof.Machine

/-! ### LZW_ENC: at most one code for each input byte (R181), at most 4 bytes for each code -/

@[simp] theorem serialise_length (w : Nat) (codes : List Nat) : (serialise w codes).length = codes.length * w := by
  simp [serialise, List.length_flatMap]

theorem codeWidth_le (codes : List Nat) : codeWidth codes ≤ 4 := by
  unfold codeWidth
  split
  · omega
  · split <;> omega

/-- A byte emits at most one code and the end emits one more, whatever the dictionary. -/
theorem lzwCodesFrom_length (dict : List (Phrase × Nat)) (nextCode : Nat) (w : Phrase) (input : Bytes) :
    (lzwCodesFrom dict nextCode w input).length ≤ input.length + 1 := by
  induction input generalizing dict nextCode w with
  | nil =>
    rw [lzwCodesFrom]
    split <;> simp
  | cons k rest ih =>
    rw [lzwCodesFrom]
    split
    · exact Nat.le_succ_of_le (ih _ _ _)
    · exact Nat.succ_le_succ (ih _ _ _)

/-- The first byte is a seed of `DICT`, so it emits no code (R171, R174). -/
theorem lzwCodes_length (input : Bytes) : (lzwCodes input).length ≤ input.length := by
  cases input with
  | nil => exact Nat.le_refl 0
  | cons k rest =>
    have hseed : dictLookup seedDict ([] ++ [k]) = some k.toNat := dictLookup_seed k
    rw [lzwCodes, lzwCodesFrom, hseed]
    exact lzwCodesFrom_length _ _ _ rest

theorem lzwEncodeBytes_length {input out : Bytes} {w : Nat} (h : lzwEncodeBytes input = .ok (out, w)) :
    out.length ≤ 4 * input.length := by
  simp only [lzwEncodeBytes] at h
  split at h
  · cases h
  · obtain ⟨rfl, -⟩ := Prod.mk.inj (OpResult.ok.inj h)
    calc (serialise (codeWidth (lzwCodes input)) (lzwCodes input)).length
        = (lzwCodes input).length * codeWidth (lzwCodes input) := serialise_length _ _
      _ ≤ input.length * 4 := Nat.mul_le_mul (lzwCodes_length input) (codeWidth_le _)
      _ = 4 * input.length := Nat.mul_comm _ _

/-! ### LZ77_ENC: at most 2 bytes for each covered byte (R231) -/

/-- A `LIT` has 2 bytes for one, a `MATCH` has 4 for at least 3 (R226, R227). -/
theorem tokenAt_length (tb : Config.TieBreak) (input : Bytes) (pos : Nat) :
    (tokenAt tb input pos).1.length ≤ 2 * (tokenAt tb input pos).2 := by
  unfold tokenAt
  by_cases h : Config.lzMinMatch ≤ (bestMatch tb input pos).1
  · have h3 : 3 ≤ (bestMatch tb input pos).1 := h
    simp only [if_pos h, List.length_append, List.length_cons, List.length_nil, toBe_length]
    omega
  · simp only [if_neg h, List.length_cons, slice_length]
    omega

theorem lz77EncodeFrom_length (tb : Config.TieBreak) (input : Bytes) (n pos : Nat) :
    (lz77EncodeFrom tb input n pos).length ≤ 2 * (input.length - pos) := by
  induction n generalizing pos with
  | zero => exact Nat.zero_le _
  | succ n ih =>
    rw [lz77EncodeFrom]
    split
    · rename_i hpos
      have htoken := tokenAt_length tb input pos
      have hcover := tokenAt_le tb hpos
      have hrest := ih (pos + (tokenAt tb input pos).2)
      rw [List.length_append]
      omega
    · exact Nat.zero_le _

/-! ### LZ77_DEC: at most 255 bytes for each token of 4 -/

theorem copyList_length_le (dist n : Nat) (out : Bytes) : (copyList dist n out).length ≤ out.length + n := by
  induction n generalizing out with
  | zero => exact Nat.le_refl _
  | succ n ih =>
    have hrest := ih (out ++ slice out (out.length - dist) 1)
    rw [List.length_append, slice_length] at hrest
    rw [copyList]
    omega

/-- A `LIT` decodes 2 bytes to one, a `MATCH` decodes 4 to at most 255 (R243, R244). -/
theorem lz77DecodeFrom_length {n : Nat} {input out result : Bytes} (h : lz77DecodeFrom n input out = .ok result) :
    4 * result.length ≤ 4 * out.length + 255 * input.length := by
  induction n generalizing input out with
  | zero =>
    obtain rfl := OpResult.ok.inj h
    exact Nat.le_add_right _ _
  | succ n ih =>
    rw [lz77DecodeFrom] at h
    split at h
    · obtain rfl := OpResult.ok.inj h
      exact Nat.le_add_right _ _
    · split at h
      · rename_i v rest hr
        have hrest := ih h
        rw [List.length_append, List.length_singleton] at hrest
        rw [readToken_eq_lit hr, List.length_cons, List.length_cons]
        omega
      · rename_i d l rest hr
        split at h
        · cases h
        · obtain ⟨d1, d0, hinput⟩ := readToken_eq_mtch hr
          have hrest := ih h
          have hcopy := copyList_length_le d.toNat l.toNat out
          have hlen := l.isLt
          simp only [hinput, List.length_cons]
          omega
      · cases h
      · cases h

/-! ### LZW_DEC: code word `i` stands for at most `i` bytes -/

@[simp] theorem lzwWords_length (w n : Nat) (bs : Bytes) : (lzwWords w n bs).length = n := by
  induction n generalizing bs with
  | zero => rfl
  | succ n ih => simp [lzwWords, ih]

/-- After `m` code words the phrase of the last one has at most `m` bytes, and every phrase of `TABLE` at most one
more (R188, R192). -/
structure PhrasesAtMost (m : Nat) (table : List (Nat × Phrase)) (prev : Option Phrase) : Prop where
  table : ∀ c p, tableLookup table c = some p → p.length ≤ m + 1
  prev : ∀ p, prev = some p → p.length ≤ m

theorem phrasesAtMost_seedTable : PhrasesAtMost 0 seedTable none where
  table := fun c p h => by
    rw [tableLookup_seed, Option.ite_none_right_eq_some] at h
    obtain ⟨-, hp⟩ := h
    obtain rfl := Option.some.inj hp
    exact Nat.le_refl 1
  prev := nofun

section
variable {m nextCode code : Nat} {table : List (Nat × Phrase)} {prev : Option Phrase} {entry : Phrase}

/-- A registered phrase, or `prev` and its first byte (R188 to R190). -/
theorem PhrasesAtMost.entry_length (h : PhrasesAtMost m table prev)
    (he : lzwEntry table nextCode prev code = some entry) : entry.length ≤ m + 1 := by
  unfold lzwEntry at he
  split at he
  · rw [Option.ite_none_right_eq_some] at he
    exact h.table code entry he.2
  · rename_i p
    split at he
    · exact h.table code entry he
    · rw [Option.ite_none_right_eq_some] at he
      obtain ⟨-, he⟩ := he
      obtain rfl := Option.some.inj he
      have hp := h.prev p rfl
      rw [List.length_append, List.length_take]
      omega

/-- The phrase bound with a code word is the one before it and one byte more (R192). -/
theorem PhrasesAtMost.after (h : PhrasesAtMost m table prev) (he : entry.length ≤ m + 1) :
    PhrasesAtMost (m + 1) (tableAfter table nextCode prev entry) (some entry) where
  table := fun c q hq => by
    cases prev with
    | none => exact Nat.le_succ_of_le (h.table c q hq)
    | some p =>
      rw [tableAfter, tableLookup_cons] at hq
      split at hq
      · obtain rfl := Option.some.inj hq
        have hp := h.prev p rfl
        rw [List.length_append, List.length_take]
        omega
      · exact Nat.le_succ_of_le (h.table c q hq)
  prev := fun q hq => by
    obtain rfl := Option.some.inj hq
    exact he

end

theorem OpResult.prepend_eq_ok {out result : Bytes} {r : OpResult Bytes} (h : r.prepend out = .ok result) :
    ∃ tail, r = .ok tail ∧ result = out ++ tail := by
  cases r with
  | ok tail => exact ⟨tail, rfl, (OpResult.ok.inj h).symm⟩
  | error c => cases h
  | refused r => cases h

/-- `n` code words after the first `m` stand for at most `(m + 1) + … + (m + n)` bytes. -/
theorem lzwDecodeFrom_length {m nextCode : Nat} {table : List (Nat × Phrase)} {prev : Option Phrase}
    {codes : List Nat} {out : Bytes} (hp : PhrasesAtMost m table prev)
    (h : lzwDecodeFrom table nextCode prev codes = .ok out) :
    2 * out.length ≤ codes.length * (2 * m + codes.length + 1) := by
  induction codes generalizing m nextCode table prev out with
  | nil =>
    obtain rfl := OpResult.ok.inj h
    exact Nat.zero_le _
  | cons code codes ih =>
    cases he : lzwEntry table nextCode prev code with
    | none =>
      rw [lzwDecodeFrom_illegal he] at h
      cases h
    | some entry =>
      rw [lzwDecodeFrom_legal he] at h
      obtain ⟨tail, htail, rfl⟩ := OpResult.prepend_eq_ok h
      have hentry := hp.entry_length he
      have hrest := ih (hp.after hentry) htail
      calc 2 * (entry ++ tail).length
          = 2 * entry.length + 2 * tail.length := by rw [List.length_append, Nat.mul_add]
        _ ≤ 2 * (m + 1) + codes.length * (2 * (m + 1) + codes.length + 1) := by omega
        _ = (code :: codes).length * (2 * m + (code :: codes).length + 1) := by rw [List.length_cons]; ring

theorem lzwDecodeBytes_length {policy : Config.WidthPolicy} {w : Nat} {input out : Bytes}
    (h : lzwDecodeBytes policy w input = .ok out) :
    2 * out.length ≤ input.length / w * (input.length / w + 1) := by
  unfold lzwDecodeBytes at h
  split at h
  · split at h
    · simpa using lzwDecodeFrom_length phrasesAtMost_seedTable h
    · cases h
  · cases policy <;> cases h

/-- Settles O44: the four bounds, each by induction along its operation. -/
theorem worstCaseOutputLengths : Obligations.WorstCaseOutputLengths :=
  ⟨fun _ _ _ => lzwEncodeBytes_length, fun tb input => lz77EncodeFrom_length tb input input.length 0,
    fun input out h => by simpa using lz77DecodeFrom_length (out := []) h, fun _ _ _ _ => lzwDecodeBytes_length⟩

end Sys2Proof.Machine
end

section
/-! SUPPORT. The fields of the units and records (R93 to R103): a field's reader and its writer undo each other, and
each reads as its bytes put side by side. -/

namespace Sys2Proof

/-! ### Fields of whole bytes (R10, R102, R103) -/

section
variable {n w : Nat}

theorem two_pow_eight_mul (n : Nat) : 2 ^ (8 * n) = 256 ^ n := pow_mul 2 8 n

theorem ofNat_beNat_toBe (x : BitVec w) (hw : w = 8 * n) : BitVec.ofNat w (beNat (toBe n x.toNat)) = x := by
  subst hw
  rw [beNat_toBe, ← two_pow_eight_mul, Nat.mod_eq_of_lt x.isLt, BitVec.ofNat_toNat, BitVec.setWidth_eq]

theorem ofNat_leNat_toLe (x : BitVec w) (hw : w = 8 * n) : BitVec.ofNat w (leNat (toLe n x.toNat)) = x := by
  subst hw
  rw [leNat_toLe, ← two_pow_eight_mul, Nat.mod_eq_of_lt x.isLt, BitVec.ofNat_toNat, BitVec.setWidth_eq]

theorem toBe_ofNat_beNat {bs : Bytes} (hn : bs.length = n) (hw : w = 8 * n) :
    toBe n (BitVec.ofNat w (beNat bs)).toNat = bs := by
  subst hn hw
  rw [BitVec.toNat_ofNat, two_pow_eight_mul, Nat.mod_eq_of_lt (beNat_lt bs), toBe_beNat]

theorem toLe_ofNat_leNat {bs : Bytes} (hn : bs.length = n) (hw : w = 8 * n) :
    toLe n (BitVec.ofNat w (leNat bs)).toNat = bs := by
  subst hn hw
  rw [BitVec.toNat_ofNat, two_pow_eight_mul, Nat.mod_eq_of_lt (leNat_lt bs), toLe_leNat]

/-- A byte put after a bit pattern is the next digit to the base 256. -/
theorem toNat_append_byte (x : BitVec w) (b : Byte) : (x ++ b).toNat = x.toNat * 256 + b.toNat := by
  rw [BitVec.toNat_append, ← Nat.shiftLeft_add_eq_or_of_lt b.isLt, Nat.shiftLeft_eq]

theorem ofNat_eq_of_toNat {v : Nat} {x : BitVec w} (h : x.toNat = v) : BitVec.ofNat w v = x := by
  rw [← h, BitVec.ofNat_toNat, BitVec.setWidth_eq]

end

/-! ### Big-endian fields (R102) -/

section
variable (b0 b1 b2 b3 : Byte)

theorem toNat_two_bytes : (b0 ++ b1).toNat = beNat [b0, b1] := by
  simp only [toNat_append_byte, beNat, beNatFrom]; omega

theorem toNat_three_bytes : (b0 ++ b1 ++ b2).toNat = beNat [b0, b1, b2] := by
  simp only [toNat_append_byte, beNat, beNatFrom]; omega

theorem toNat_four_bytes : (b0 ++ b1 ++ b2 ++ b3).toNat = beNat [b0, b1, b2, b3] := by
  simp only [toNat_append_byte, beNat, beNatFrom]; omega

end

/-! ### Little-endian fields at an offset (R103) -/

section
variable {bs : Bytes} {off : Nat}

theorem leU16_of_bytes {b0 b1 : Byte} (h : slice bs off 2 = [b0, b1]) : leU16 bs off = b1 ++ b0 :=
  ofNat_eq_of_toNat (by simp only [h, toNat_append_byte, leNat]; omega)

theorem leU32_of_bytes {b0 b1 b2 b3 : Byte} (h : slice bs off 4 = [b0, b1, b2, b3]) :
    leU32 bs off = b3 ++ b2 ++ b1 ++ b0 :=
  ofNat_eq_of_toNat (by simp only [h, toNat_append_byte, leNat]; omega)

theorem leU16_of_toLe {x : BitVec 16} (h : slice bs off 2 = toLe 2 x.toNat) : leU16 bs off = x := by
  rw [leU16, h]; exact ofNat_leNat_toLe (n := 2) x rfl

theorem leU32_of_toLe {x : BitVec 32} (h : slice bs off 4 = toLe 4 x.toNat) : leU32 bs off = x := by
  rw [leU32, h]; exact ofNat_leNat_toLe (n := 4) x rfl

/-! ### A byte string put together again from its fields -/

theorem slice_append_drop (bs : Bytes) (off n : Nat) : slice bs off n ++ bs.drop (off + n) = bs.drop off := by
  rw [slice, ← List.drop_drop, List.take_append_drop]

theorem toLe_leU16_append_drop (h : off + 2 ≤ bs.length) :
    toLe 2 (leU16 bs off).toNat ++ bs.drop (off + 2) = bs.drop off := by
  rw [leU16, toLe_ofNat_leNat (by rw [slice_length]; omega) rfl, slice_append_drop]

theorem toLe_leU32_append_drop (h : off + 4 ≤ bs.length) :
    toLe 4 (leU32 bs off).toNat ++ bs.drop (off + 4) = bs.drop off := by
  rw [leU32, toLe_ofNat_leNat (by rw [slice_length]; omega) rfl, slice_append_drop]

theorem u8At_cons_drop (h : off < bs.length) : u8At bs off :: bs.drop (off + 1) = bs.drop off := by
  rw [u8At, List.getD_eq_getElem _ _ h, List.getElem_cons_drop]

end

end Sys2Proof
end

section
/-! SUPPORT. What each decoder reads, and that decoding and encoding undo each other, stream by stream (R91 to R100). -/

namespace Sys2Proof

open Machine

/-! ### Commands (R91) -/

theorem decodeCommandByte_eq_unit {bs rest : Bytes} {i : Instr} (h : decodeCommandByte bs = .unit i rest) :
    ∃ c : BitVec 3, bs = BitVec.ofNat 8 c.toNat :: rest ∧ i = decodeCommand c := by
  unfold decodeCommandByte at h
  split at h
  · cases h
  · rename_i b rest'
    split at h
    · rename_i hlt
      obtain ⟨rfl, rfl⟩ := Decoded.unit.inj h
      have hb : BitVec.ofNat 8 (BitVec.ofNat 3 b.toNat).toNat = b :=
        ofNat_eq_of_toNat (by rw [BitVec.toNat_ofNat]; omega)
      exact ⟨BitVec.ofNat 3 b.toNat, by rw [hb], rfl⟩
    · cases h

theorem encode_decodeCommand :
    ∀ c : BitVec 3,
      streamOf (decodeCommand c) = .command ∧ encode (decodeCommand c) = [BitVec.ofNat 8 c.toNat] := by
  decide

/-! ### Tokens (R95, R96) -/

theorem decode_tokens_lit (v : Byte) (rest : Bytes) :
    decode .tokens (Config.lzFlagLit :: v :: rest) = .unit (.lit v) rest := rfl

theorem decode_tokens_match (d1 d0 l : Byte) (rest : Bytes) :
    decode .tokens (Config.lzFlagMatch :: d1 :: d0 :: l :: rest) =
      .unit (.matchTok (BitVec.ofNat 16 (beNat [d1, d0])) l) rest := rfl

theorem decode_tokens_match_short {rest : Bytes} (h : rest.length < 3) :
    decode .tokens (Config.lzFlagMatch :: rest) = .reject .truncated := by
  rcases rest with _ | ⟨d1, _ | ⟨d0, _ | ⟨l, rest⟩⟩⟩
  · rfl
  · rfl
  · rfl
  · simp at h; omega

theorem decode_tokens_badFlag {flag : Byte} (h0 : flag ≠ Config.lzFlagLit) (h1 : flag ≠ Config.lzFlagMatch)
    (rest : Bytes) : decode .tokens (flag :: rest) = .reject .badFlag := by
  simp only [decode, decodeToken, readToken, if_neg h0, if_neg h1]

theorem decode_encode_matchTok (d : BitVec 16) (l : Byte) (rest : Bytes) :
    decode .tokens (encode (.matchTok d l) ++ rest) = .unit (.matchTok d l) rest := by
  have hread : BitVec.ofNat 16 (beNat (toBe 2 d.toNat)) = d := ofNat_beNat_toBe (n := 2) d rfl
  exact (decode_tokens_match _ _ l rest).trans (congrArg (fun d => Decoded.unit (.matchTok d l) rest) hread)

/-- A token is a `LIT` or a `MATCH`, by its flag. -/
theorem decodeToken_eq_unit {bs rest : Bytes} {i : Instr} (h : decodeToken bs = .unit i rest) :
    (∃ v, bs = Config.lzFlagLit :: v :: rest ∧ i = .lit v) ∨
      ∃ d1 d0 l, bs = Config.lzFlagMatch :: d1 :: d0 :: l :: rest ∧
        i = .matchTok (BitVec.ofNat 16 (beNat [d1, d0])) l := by
  unfold decodeToken at h
  split at h
  · rename_i v rest' hread
    obtain ⟨rfl, rfl⟩ := Decoded.unit.inj h
    exact .inl ⟨v, readToken_eq_lit hread, rfl⟩
  · rename_i d l rest' hread
    obtain ⟨rfl, rfl⟩ := Decoded.unit.inj h
    obtain ⟨d1, d0, rfl⟩ := readToken_eq_mtch hread
    obtain ⟨rfl, -, -⟩ := TokenRead.mtch.inj hread
    exact .inr ⟨d1, d0, l, rfl, rfl⟩
  · cases h
  · cases h

/-! ### Code words (R93) -/

theorem codeUnit_cases {i : Instr} {w code : Nat} (h : codeUnit i = some (w, code)) :
    (∃ c, i = .codeW2 c ∧ w = 2 ∧ code = c.toNat) ∨ (∃ c, i = .codeW3 c ∧ w = 3 ∧ code = c.toNat) ∨
      ∃ c, i = .codeW4 c ∧ w = 4 ∧ code = c.toNat := by
  cases i with
  | codeW2 c =>
    obtain ⟨rfl, rfl⟩ := Prod.mk.inj (Option.some.inj h)
    exact .inl ⟨c, rfl, rfl, rfl⟩
  | codeW3 c =>
    obtain ⟨rfl, rfl⟩ := Prod.mk.inj (Option.some.inj h)
    exact .inr (.inl ⟨c, rfl, rfl, rfl⟩)
  | codeW4 c =>
    obtain ⟨rfl, rfl⟩ := Prod.mk.inj (Option.some.inj h)
    exact .inr (.inr ⟨c, rfl, rfl, rfl⟩)
  | _ => cases h

theorem encode_of_codeUnit {i : Instr} {w code : Nat} (h : codeUnit i = some (w, code)) :
    streamOf i = .codes w ∧ encode i = toBe w code ∧ code < 256 ^ w := by
  obtain ⟨c, rfl, rfl, rfl⟩ | ⟨c, rfl, rfl, rfl⟩ | ⟨c, rfl, rfl, rfl⟩ := codeUnit_cases h <;>
    exact ⟨rfl, rfl, c.isLt⟩

theorem decodeCode_of_codeUnit {w : Nat} {bs : Bytes} {i : Instr} (hlen : w ≤ bs.length)
    (h : codeUnit i = some (w, beNat (bs.take w))) : decodeCode w bs = .unit i (bs.drop w) := by
  rw [decodeCode, if_neg (Nat.not_lt_of_le hlen)]
  obtain ⟨c, rfl, rfl, hc⟩ | ⟨c, rfl, rfl, hc⟩ | ⟨c, rfl, rfl, hc⟩ := codeUnit_cases h <;>
    simp only [ofNat_eq_of_toNat hc.symm]

theorem decodeCode_append {w : Nat} {bs : Bytes} {i : Instr} (hlen : bs.length = w)
    (h : codeUnit i = some (w, beNat bs)) (rest : Bytes) : decodeCode w (bs ++ rest) = .unit i rest := by
  rw [decodeCode_of_codeUnit (i := i) (by simp [← hlen]) (by rw [List.take_left' hlen, h]), List.drop_left' hlen]

/-- A code word is read at its width and is the big-endian number of its bytes. -/
theorem decodeCode_eq_unit {w : Nat} {bs rest : Bytes} {i : Instr} (h : decodeCode w bs = .unit i rest) :
    w ≤ bs.length ∧ codeUnit i = some (w, beNat (bs.take w)) ∧ rest = bs.drop w := by
  by_cases hlen : bs.length < w
  · rw [decodeCode, if_pos hlen] at h
    cases h
  · by_cases hw : w ∈ Config.lzwWidths
    · have htake : (bs.take w).length = w := List.length_take_of_le (Nat.le_of_not_lt hlen)
      obtain ⟨j, -, hj⟩ := decodeCode_whole (bs := bs.take w) (htake.symm ▸ hw)
      rw [htake] at hj
      have hread := decodeCode_of_codeUnit (Nat.le_of_not_lt hlen) hj
      obtain ⟨rfl, rfl⟩ := Decoded.unit.inj (hread.symm.trans h)
      exact ⟨Nat.le_of_not_lt hlen, hj, rfl⟩
    · obtain ⟨r, hr⟩ := decodeCode_illegalWidth (bs := bs) hw
      rw [hr] at h
      cases h

theorem decode_encode_of_codeUnit {i : Instr} {w code : Nat} (h : codeUnit i = some (w, code)) (rest : Bytes) :
    decode (streamOf i) (encode i ++ rest) = .unit i rest := by
  obtain ⟨hstream, hencode, hlt⟩ := encode_of_codeUnit h
  rw [hstream, hencode]
  exact decodeCode_append (toBe_length w code) (by rw [beNat_toBe, Nat.mod_eq_of_lt hlt, h]) rest

theorem encode_of_decodeCode {w : Nat} {bs rest : Bytes} {i : Instr} (h : decodeCode w bs = .unit i rest) :
    streamOf i = .codes w ∧ bs = encode i ++ rest := by
  obtain ⟨hlen, hunit, rfl⟩ := decodeCode_eq_unit h
  obtain ⟨hstream, hencode, -⟩ := encode_of_codeUnit hunit
  have htake : toBe w (beNat (bs.take w)) = bs.take w := by
    simpa [Nat.min_eq_left hlen] using toBe_beNat (bs.take w)
  exact ⟨hstream, by rw [hencode, htake, List.take_append_drop]⟩

/-! ### The BMP file header (R98) -/

theorem decodeBmpFile_eq_unit {bs rest : Bytes} {i : Instr} :
    decodeBmpFile bs = .unit i rest ↔
      14 ≤ bs.length ∧ bs.take 2 = Config.bmpSignature ∧ i = .bmpFileHdr (bmpFileFields bs) ∧
        rest = bs.drop 14 := by
  by_cases hlen : bs.length < Config.bmpFileHdrLen
  · rw [decodeBmpFile, if_pos hlen]
    exact ⟨nofun, fun h => absurd h.1 (Nat.not_le_of_lt hlen)⟩
  · by_cases hsig : bs.take 2 = Config.bmpSignature
    · rw [decodeBmpFile, if_neg hlen, if_pos hsig, Decoded.unit.injEq]
      exact ⟨fun ⟨hi, hr⟩ => ⟨Nat.le_of_not_lt hlen, hsig, hi.symm, hr.symm⟩,
        fun ⟨_, _, hi, hr⟩ => ⟨hi.symm, hr.symm⟩⟩
    · rw [decodeBmpFile, if_neg hlen, if_neg hsig]
      exact ⟨nofun, fun h => absurd h.2.1 hsig⟩

theorem bmpFileFields_encode (f : BmpFileFields) (rest : Bytes) : bmpFileFields (encodeBmpFile f ++ rest) = f := by
  obtain ⟨fileSize, reserved1, reserved2, dataOffset⟩ := f
  simp only [bmpFileFields, BmpFileFields.mk.injEq]
  exact ⟨leU32_of_toLe rfl, leU16_of_toLe rfl, leU16_of_toLe rfl, leU32_of_toLe rfl⟩

theorem decodeBmpFile_encode (f : BmpFileFields) (rest : Bytes) :
    decodeBmpFile (encodeBmpFile f ++ rest) = .unit (.bmpFileHdr f) rest := by
  have hlen : (encodeBmpFile f).length = 14 := (Laws.EncodedLength.bmpFileHdr f).1
  exact decodeBmpFile_eq_unit.mpr
    ⟨by simp [hlen], rfl, congrArg Instr.bmpFileHdr (bmpFileFields_encode f rest).symm, (List.drop_left' hlen).symm⟩

theorem encodeBmpFile_bmpFileFields {bs : Bytes} (hlen : 14 ≤ bs.length) (hsig : bs.take 2 = Config.bmpSignature) :
    encodeBmpFile (bmpFileFields bs) ++ bs.drop 14 = bs := by
  simp only [encodeBmpFile, bmpFileFields, List.append_assoc]
  rw [toLe_leU32_append_drop (off := 10) (by omega), toLe_leU16_append_drop (off := 8) (by omega),
    toLe_leU16_append_drop (off := 6) (by omega), toLe_leU32_append_drop (off := 2) (by omega), ← hsig,
    List.take_append_drop]

/-! ### The BMP info header (R99) -/

theorem decodeBmpInfo_eq_unit {bs rest : Bytes} {i : Instr} :
    decodeBmpInfo bs = .unit i rest ↔
      40 ≤ bs.length ∧ i = .bmpInfoHdr (bmpInfoFields bs) ∧ rest = bs.drop 40 := by
  by_cases hlen : bs.length < Config.bmpInfoMin
  · rw [decodeBmpInfo, if_pos hlen]
    exact ⟨nofun, fun h => absurd h.1 (Nat.not_le_of_lt hlen)⟩
  · rw [decodeBmpInfo, if_neg hlen, Decoded.unit.injEq]
    exact ⟨fun ⟨hi, hr⟩ => ⟨Nat.le_of_not_lt hlen, hi.symm, hr.symm⟩,
      fun ⟨_, hi, hr⟩ => ⟨hi.symm, hr.symm⟩⟩

theorem bmpInfoFields_encode (f : BmpInfoFields) (rest : Bytes) : bmpInfoFields (encodeBmpInfo f ++ rest) = f := by
  obtain ⟨headerSize, width, height, planes, bits, compression, imageSize, xPixels, yPixels, used, important⟩ := f
  simp only [encodeBmpInfo, List.append_assoc, bmpInfoFields, BmpInfoFields.mk.injEq]
  exact ⟨leU32_of_toLe rfl, leU32_of_toLe rfl, leU32_of_toLe rfl, leU16_of_toLe rfl, leU16_of_toLe rfl,
    leU32_of_toLe rfl, leU32_of_toLe rfl, leU32_of_toLe rfl, leU32_of_toLe rfl, leU32_of_toLe rfl, leU32_of_toLe rfl⟩

theorem decodeBmpInfo_encode (f : BmpInfoFields) (rest : Bytes) :
    decodeBmpInfo (encodeBmpInfo f ++ rest) = .unit (.bmpInfoHdr f) rest := by
  have hlen : (encodeBmpInfo f).length = 40 := (Laws.EncodedLength.bmpInfoHdr f).1
  exact decodeBmpInfo_eq_unit.mpr
    ⟨by simp [hlen], congrArg Instr.bmpInfoHdr (bmpInfoFields_encode f rest).symm, (List.drop_left' hlen).symm⟩

theorem encodeBmpInfo_bmpInfoFields {bs : Bytes} (hlen : 40 ≤ bs.length) :
    encodeBmpInfo (bmpInfoFields bs) ++ bs.drop 40 = bs := by
  simp only [encodeBmpInfo, bmpInfoFields, List.append_assoc]
  rw [toLe_leU32_append_drop (off := 36) (by omega), toLe_leU32_append_drop (off := 32) (by omega),
    toLe_leU32_append_drop (off := 28) (by omega), toLe_leU32_append_drop (off := 24) (by omega),
    toLe_leU32_append_drop (off := 20) (by omega), toLe_leU32_append_drop (off := 16) (by omega),
    toLe_leU16_append_drop (off := 14) (by omega), toLe_leU16_append_drop (off := 12) (by omega),
    toLe_leU32_append_drop (off := 8) (by omega), toLe_leU32_append_drop (off := 4) (by omega),
    toLe_leU32_append_drop (off := 0) (by omega), List.drop_zero]

/-! ### The container header (R100) -/

theorem decodeCmpt_eq_unit {bs rest : Bytes} {i : Instr} :
    decodeCmpt bs = .unit i rest ↔
      20 ≤ bs.length ∧ bs.take 4 = Config.cmptMagic ∧ i = .cmptHdr (cmptFields bs) ∧ rest = bs.drop 20 := by
  by_cases hmagic : bs.take 4 = Config.cmptMagic
  · by_cases hlen : bs.length < Config.cmptHdrLen
    · rw [decodeCmpt, if_pos hmagic, if_pos hlen]
      exact ⟨nofun, fun h => absurd h.1 (Nat.not_le_of_lt hlen)⟩
    · rw [decodeCmpt, if_pos hmagic, if_neg hlen, Decoded.unit.injEq]
      exact ⟨fun ⟨hi, hr⟩ => ⟨Nat.le_of_not_lt hlen, hmagic, hi.symm, hr.symm⟩,
        fun ⟨_, _, hi, hr⟩ => ⟨hi.symm, hr.symm⟩⟩
  · rw [decodeCmpt, if_neg hmagic]
    exact ⟨nofun, fun h => absurd h.2.1 hmagic⟩

theorem cmptFields_encode (f : CmptFields) (rest : Bytes) : cmptFields (encodeCmpt f ++ rest) = f := by
  obtain ⟨version, algorithmId, sideInfo, bitsPerPixel, width, height, payloadLength⟩ := f
  simp only [cmptFields, CmptFields.mk.injEq]
  exact ⟨rfl, rfl, rfl, rfl, leU32_of_toLe rfl, leU32_of_toLe rfl, leU32_of_toLe rfl⟩

theorem decodeCmpt_encode (f : CmptFields) (rest : Bytes) :
    decodeCmpt (encodeCmpt f ++ rest) = .unit (.cmptHdr f) rest := by
  have hlen : (encodeCmpt f).length = 20 := (Laws.EncodedLength.cmptHdr f).1
  exact decodeCmpt_eq_unit.mpr
    ⟨by simp [hlen], rfl, congrArg Instr.cmptHdr (cmptFields_encode f rest).symm, (List.drop_left' hlen).symm⟩

theorem encodeCmpt_cmptFields {bs : Bytes} (hlen : 20 ≤ bs.length) (hmagic : bs.take 4 = Config.cmptMagic) :
    encodeCmpt (cmptFields bs) ++ bs.drop 20 = bs := by
  simp only [encodeCmpt, cmptFields, List.append_assoc, List.cons_append, List.nil_append]
  rw [toLe_leU32_append_drop (off := 16) (by omega), toLe_leU32_append_drop (off := 12) (by omega),
    toLe_leU32_append_drop (off := 8) (by omega), u8At_cons_drop (off := 7) (by omega),
    u8At_cons_drop (off := 6) (by omega), u8At_cons_drop (off := 5) (by omega), u8At_cons_drop (off := 4) (by omega),
    ← hmagic, List.take_append_drop]

/-! ### Decoding and encoding undo each other -/

/-- Settles O1: row by row of the instruction table. -/
theorem decodeInvertsEncode : Obligations.DecodeInvertsEncode := by
  intro i rest
  cases i with
  | bmpParse | lzwEnc | lzwDec | lz77Enc | lz77Dec | cmdReserved0 | cmdReserved6 | cmdReserved7 => rfl
  | lit v => exact decode_tokens_lit v rest
  | matchTok d l => exact decode_encode_matchTok d l rest
  | codeW2 c => exact decode_encode_of_codeUnit rfl rest
  | codeW3 c => exact decode_encode_of_codeUnit rfl rest
  | codeW4 c => exact decode_encode_of_codeUnit rfl rest
  | bmpFileHdr f => exact decodeBmpFile_encode f rest
  | bmpInfoHdr f => exact decodeBmpInfo_encode f rest
  | cmptHdr f => exact decodeCmpt_encode f rest

/-- Settles O2: by the streams, each with what its decoder reads. -/
theorem encodeInvertsDecode : Obligations.EncodeInvertsDecode := by
  intro st bs i rest h
  cases st with
  | command =>
    obtain ⟨c, rfl, rfl⟩ := decodeCommandByte_eq_unit h
    obtain ⟨hstream, hencode⟩ := encode_decodeCommand c
    exact ⟨hstream, by rw [hencode]; rfl⟩
  | tokens =>
    obtain ⟨v, rfl, rfl⟩ | ⟨d1, d0, l, rfl, rfl⟩ := decodeToken_eq_unit h
    · exact ⟨rfl, rfl⟩
    · have hwrite : toBe 2 (BitVec.ofNat 16 (beNat [d1, d0])).toNat = [d1, d0] := toBe_ofNat_beNat rfl rfl
      exact ⟨rfl, by rw [encode, hwrite]; rfl⟩
  | codes w => exact encode_of_decodeCode h
  | bmpFile =>
    obtain ⟨hlen, hsig, rfl, rfl⟩ := decodeBmpFile_eq_unit.mp h
    exact ⟨rfl, (encodeBmpFile_bmpFileFields hlen hsig).symm⟩
  | bmpInfo =>
    obtain ⟨hlen, rfl, rfl⟩ := decodeBmpInfo_eq_unit.mp h
    exact ⟨rfl, (encodeBmpInfo_bmpInfoFields hlen).symm⟩
  | container =>
    obtain ⟨hlen, hmagic, rfl, rfl⟩ := decodeCmpt_eq_unit.mp h
    exact ⟨rfl, (encodeCmpt_cmptFields hlen hmagic).symm⟩

/-! ### Layouts -/

/-- Settles O4: each field is read at the slice of its bytes. -/
theorem recordLayouts : Obligations.RecordLayouts := by
  refine ⟨?file, ?info, ?container⟩
  case file =>
    intro f0 f1 f2 f3 a0 a1 b0 b1 o0 o1 o2 o3 rest
    refine decodeBmpFile_eq_unit.mpr ⟨by simp, rfl, ?_, rfl⟩
    simp only [bmpFileFields, Instr.bmpFileHdr.injEq, BmpFileFields.mk.injEq]
    exact ⟨(leU32_of_bytes rfl).symm, (leU16_of_bytes rfl).symm, (leU16_of_bytes rfl).symm,
      (leU32_of_bytes rfl).symm⟩
  case info =>
    intros
    refine decodeBmpInfo_eq_unit.mpr ⟨by simp, ?_, rfl⟩
    simp only [bmpInfoFields, Instr.bmpInfoHdr.injEq, BmpInfoFields.mk.injEq]
    exact ⟨(leU32_of_bytes rfl).symm, (leU32_of_bytes rfl).symm, (leU32_of_bytes rfl).symm, (leU16_of_bytes rfl).symm,
      (leU16_of_bytes rfl).symm, (leU32_of_bytes rfl).symm, (leU32_of_bytes rfl).symm, (leU32_of_bytes rfl).symm,
      (leU32_of_bytes rfl).symm, (leU32_of_bytes rfl).symm, (leU32_of_bytes rfl).symm⟩
  case container =>
    intros
    refine decodeCmpt_eq_unit.mpr ⟨by simp, rfl, ?_, rfl⟩
    simp only [cmptFields, Instr.cmptHdr.injEq, CmptFields.mk.injEq]
    exact ⟨rfl, rfl, rfl, rfl, (leU32_of_bytes rfl).symm, (leU32_of_bytes rfl).symm, (leU32_of_bytes rfl).symm⟩

/-- Settles O5: a code word is the number of its bytes, and a token is read by its flag. -/
theorem streamUnitLayouts : Obligations.StreamUnitLayouts := by
  intro b0 b1 b2 b3 rest
  have hdistance : BitVec.ofNat 16 (beNat [b1, b2]) = b1 ++ b2 := ofNat_eq_of_toNat (toNat_two_bytes b1 b2)
  exact ⟨decodeCode_append rfl (by rw [← toNat_two_bytes]; rfl) rest,
    decodeCode_append rfl (by rw [← toNat_three_bytes]; rfl) rest,
    decodeCode_append rfl (by rw [← toNat_four_bytes]; rfl) rest,
    decode_tokens_lit b1 rest,
    hdistance ▸ decode_tokens_match b1 b2 b3 rest⟩

/-! ### Byte strings that hold no token -/

/-- Settles O6: by the flag and, where it is legal, by the number of bytes after it. -/
theorem tokenRejects : Obligations.TokenRejects := by
  intro flag rest
  by_cases hlit : flag = Config.lzFlagLit
  · subst hlit
    cases rest with
    | nil => decide
    | cons v rest => simp [decode_tokens_lit, show Config.lzFlagLit.toNat = 0 from rfl]
  · by_cases hmatch : flag = Config.lzFlagMatch
    · subst hmatch
      have hflag : Config.lzFlagMatch.toNat = 1 := rfl
      by_cases hshort : rest.length < 3
      · simp [decode_tokens_match_short hshort, hflag, hshort]
      · obtain ⟨d1, d0, l, tail, rfl⟩ : ∃ d1 d0 l tail, rest = d1 :: d0 :: l :: tail := by
          rcases rest with _ | ⟨d1, _ | ⟨d0, _ | ⟨l, tail⟩⟩⟩ <;> simp at hshort ⊢
        simp [decode_tokens_match, hflag]
    · have h0 : flag.toNat ≠ 0 := fun h => hlit (BitVec.eq_of_toNat_eq h)
      have h1 : flag.toNat ≠ 1 := fun h => hmatch (BitVec.eq_of_toNat_eq h)
      have htwo : 2 ≤ flag.toNat := by omega
      simp [decode_tokens_badFlag hlit hmatch, h0, h1, htwo]

/-- Settles O3: each word is evaluated. -/
theorem wordsDecode : Obligations.WordsDecode :=
  ⟨rfl, rfl, rfl, rfl, rfl, rfl, rfl, rfl, rfl⟩

end Sys2Proof
end

section
/-! SUPPORT. The first code word of `LZW_DEC` (R188). -/

namespace Sys2Proof.Machine

theorem stores_appended (s : State) (bs : Bytes) : Stores s (s.appended bs) s.outLen bs :=
  Memory.read_writeBytes s.out s.outLen bs

theorem codeWord_firstSeed {code : Nat} {entry : Phrase} {s : State} (hp : s.prev = none) (hlt : code < 256)
    (hl : tableLookup s.table code = some entry) (hfits : outFits s.params (s.outLen + entry.length) = true) :
    codeWord code s = .next { s.appended entry with prev := some entry, ip := s.ip + s.width } := by
  have hlt' : code < Config.lzwSeedCount := hlt
  simp [codeWord, hp, hlt', hl, emitEntry, emit_eq_next.mpr ⟨hfits, rfl⟩]

theorem codeWord_firstIllegal {code : Nat} {s : State} (hp : s.prev = none) (hle : 256 ≤ code) :
    codeWord code s = .next (s.raiseError .lzwBadCode) := by
  have hlt : ¬ code < Config.lzwSeedCount := Nat.not_lt_of_le hle
  simp [codeWord, hp, hlt]

/-- Settles O30: the code word is `codeWord` at each width, and without a `prev` it binds nothing. -/
theorem firstCodeWord : Obligations.FirstCodeWord := by
  intro i w code s hunit hb hc hw hp
  have hexec : exec i s = codeWord code s := (exec_of_codeUnit hunit s).trans (codeWordAt_running hb hc hw)
  refine ⟨fun hlt hl hfits => ⟨_, hexec.trans (codeWord_firstSeed hp hlt hl hfits), ?_, stores_appended s _⟩,
    fun hle => hexec.trans (codeWord_firstIllegal hp hle)⟩
  rw [← hw]
  rfl

end Sys2Proof.Machine
end

section
/-! SUPPORT. The records of `BMP_PARSE` (R141 to R150): what each read answers from its fields, and the fields as
slices of the input. -/

namespace Sys2Proof

/-! ### A field of a slice is a field of the input (R103) -/

theorem slice_slice (bs : Bytes) (a : Nat) {off k n : Nat} (h : off + k ≤ n) :
    slice (slice bs a n) off k = slice bs (a + off) k := by
  rw [slice, slice, slice, List.drop_take, List.drop_drop, List.take_take, Nat.min_eq_left (by omega)]

theorem leU32_slice (bs : Bytes) (a : Nat) {off n : Nat} (h : off + 4 ≤ n) :
    leU32 (slice bs a n) off = leU32 bs (a + off) := by
  rw [leU32, slice_slice bs a h, leU32]

theorem leU16_slice (bs : Bytes) (a : Nat) {off n : Nat} (h : off + 2 ≤ n) :
    leU16 (slice bs a n) off = leU16 bs (a + off) := by
  rw [leU16, slice_slice bs a h, leU16]

/-- The explicit two's complement reading is `BitVec.toInt` (R10, R355). -/
theorem sle32_eq_toInt (x : BitVec 32) : sle32 x = x.toInt := by
  rw [sle32, BitVec.toInt_eq_toNat_cond]
  by_cases h : x.toNat < 2 ^ 31
  · rw [if_pos h, if_pos (by omega)]
  · rw [if_neg h, if_neg (by omega)]
    rfl

end Sys2Proof

namespace Sys2Proof.Machine

section
variable {s : State}

/-! ### The file header -/

theorem execBmpFileHdr_running {f : BmpFileFields} (hb : s.status = .busy) (hc : s.cmd = cmdBmpParse)
    (h0 : s.ip = 0) : exec (.bmpFileHdr f) s = readFileHeader f s :=
  if_pos ⟨runs_eq_true.mpr ⟨hb, hc⟩, h0⟩

theorem readFileHeader_short {f : BmpFileFields} (h : s.inLen < Config.bmpFileHdrLen) :
    readFileHeader f s = .next (s.raiseError .bmpShortFileHeader) := if_pos h

theorem readFileHeader_ok {f : BmpFileFields} (h : Config.bmpFileHdrLen ≤ s.inLen) :
    readFileHeader f s = .next { s with fh := fileHeaderOf f, ip := Config.bmpFileHdrLen } :=
  if_neg (Nat.not_lt_of_le h)

/-- The fields of the record at address 0, at their offsets in the input (R98). -/
theorem bmpFileFields_slice (input : Bytes) :
    bmpFileFields (slice input 0 14) =
      { fileSize := leU32 input 2, reserved1 := leU16 input 6, reserved2 := leU16 input 8
        dataOffset := leU32 input 10 } := by
  simp [bmpFileFields, leU32_slice, leU16_slice]

/-! ### The info header -/

theorem execBmpInfoHdr_running {f : BmpInfoFields} (hb : s.status = .busy) (hc : s.cmd = cmdBmpParse)
    (h14 : s.ip = 14) : exec (.bmpInfoHdr f) s = readInfoHeader f s :=
  if_pos ⟨runs_eq_true.mpr ⟨hb, hc⟩, h14⟩

/-- Natural subtraction is the length of the third read (R145): none for a `header_size` below 4. -/
theorem infoRest_eq (headerSize : Nat) : infoRest headerSize = headerSize - 4 := by
  rw [infoRest]
  split <;> omega

theorem infoCause_of_cutOff {inLen headerSize : Nat} (h : inLen < 18 + (headerSize - 4)) :
    infoCause inLen headerSize = some .bmpShortInfoHeader := by
  rw [infoCause, infoRest_eq, if_pos h, ite_self]

theorem infoCause_of_small {inLen headerSize : Nat} (h18 : 18 ≤ inLen) (hroom : 18 + (headerSize - 4) ≤ inLen)
    (hsmall : headerSize < Config.bmpInfoMin) : infoCause inLen headerSize = some .bmpInfoTooSmall := by
  rw [infoCause, infoRest_eq, if_neg (by omega), if_neg (by omega), if_pos hsmall]

/-- The record of the fields, the signed ones read by `BitVec.toInt` (R147, R355). -/
theorem infoHeaderOf_eq (f : BmpInfoFields) :
    infoHeaderOf f =
      { headerSize := f.headerSize, width := f.width.toInt, height := f.height.toInt, planes := f.planes
        bitsPerPixel := f.bitsPerPixel, compression := f.compression, imageSize := f.imageSize
        xPixelsPerMeter := f.xPixelsPerMeter.toInt, yPixelsPerMeter := f.yPixelsPerMeter.toInt
        colorsUsed := f.colorsUsed, colorsImportant := f.colorsImportant } := by
  simp only [infoHeaderOf, sle32_eq_toInt]

/-- The fields of the record at address 14, at their offsets in the input (R99). -/
theorem bmpInfoFields_slice (input : Bytes) :
    bmpInfoFields (slice input 14 40) =
      { headerSize := leU32 input 14, width := leU32 input 18, height := leU32 input 22, planes := leU16 input 26
        bitsPerPixel := leU16 input 28, compression := leU32 input 30, imageSize := leU32 input 34
        xPixelsPerMeter := leU32 input 38, yPixelsPerMeter := leU32 input 42, colorsUsed := leU32 input 46
        colorsImportant := leU32 input 50 } := by
  simp [bmpInfoFields, leU32_slice, leU16_slice]

end

/-! ### The statements -/

/-- Settles O18: the record's one check is the length. -/
theorem bmpFileHeaderRecord : Obligations.BmpFileHeaderRecord := by
  intro f s hb hc h0
  rw [execBmpFileHdr_running hb hc h0]
  exact ⟨readFileHeader_ok, readFileHeader_short⟩

/-- Settles O19: each clause is one answer of `infoCause`. -/
theorem bmpInfoHeaderRecord : Obligations.BmpInfoHeaderRecord := by
  intro f s hb hc h14
  rw [execBmpInfoHdr_running hb hc h14, ← infoHeaderOf_eq f]
  refine ⟨fun hshort => ?noSize, fun _ hcut => ?noRest, fun h18 hroom hsmall => ?tooSmall,
    fun hroom hsize => ?ok⟩
  case noSize => exact readInfoHeader_error (infoCause_of_short hshort)
  case noRest => exact readInfoHeader_error (infoCause_of_cutOff hcut)
  case tooSmall => exact readInfoHeader_error (infoCause_of_small h18 hroom hsmall)
  case ok => exact readInfoHeader_ok (infoCause_eq_none.mpr ⟨hsize, hroom⟩)

/-- Settles O20: the first read is the operation's own micro-step on the first 14 bytes. -/
theorem bmpFirstRead : Obligations.BmpFirstRead := by
  intro input s hb hc h0 hi
  rw [step_bmpParse_file hb hc hi h0]
  refine ⟨fun hshort => bmpParseStep_short h0 hshort, fun hlen hsig => ?badSignature, fun hlen hsig => ?fields⟩
  case badSignature =>
    rw [bmpParseStep_file hi h0 (Nat.not_lt_of_le hlen)]
    exact if_neg hsig
  case fields =>
    rw [bmpParseStep_file hi h0 (Nat.not_lt_of_le hlen), bmpFileFields_slice]
    exact (if_pos hsig).trans (readFileHeader_ok hlen)

/-- Settles O21: the second and third read are the record of `bmpInfoHeaderRecord` with the fields of the input. -/
theorem bmpSecondAndThirdRead : Obligations.BmpSecondAndThirdRead := by
  intro input s hb hc h14 hi
  rw [step_bmpParse_info hb hc hi h14, bmpParseStep_info hi h14, ← execBmpInfoHdr_running hb hc h14,
    bmpInfoFields_slice]
  obtain ⟨hnoSize, hnoRest, htooSmall, hok⟩ := bmpInfoHeaderRecord _ s hb hc h14
  refine ⟨hnoSize, fun hs hsize h18 => ?_⟩
  subst hsize
  exact ⟨hnoRest h18, htooSmall h18, fun hroom h40 => hok (by dsimp only; omega) h40⟩

end Sys2Proof.Machine
end

section
/-! SUPPORT. Which operation raises which cause (R301 to R303, R307). -/

namespace Sys2Proof.Machine

/-- The causes of `BMP_PARSE` (R151, R301, R302). -/
def bmpCauses : List ErrCause := [.bmpShortFileHeader, .bmpBadSignature, .bmpShortInfoHeader, .bmpInfoTooSmall]

/-- The causes of `LZW_DEC` (R195, R303). -/
def lzwDecCauses : List ErrCause := [.lzwBadWidth, .lzwBadLength, .lzwBadCode]

/-- The causes of `LZ77_DEC` (R252, R303). -/
def lz77DecCauses : List ErrCause := [.lzBadFlag, .lzTruncated, .lzBadDistance]

section
variable {s t : State}

/-! ### An error as a transition -/

/-- A step of the block that ends in error: the kind is the cause's, and the operation is one that can raise; of these
only `LZW_DEC` can fail at its start (R186, R187). -/
theorem Transition.error_cases (h : Transition s t) (hact : s.status = .busy ∨ s.start = true)
    (he : t.status = .error) :
    t.errKind = t.errCause.kind ∧
      (s.status = .busy ∧ s.cmd = cmdBmpParse ∨ s.cmd = cmdLzwDec ∨ s.status = .busy ∧ s.cmd = cmdLz77Dec) := by
  have hidle : s.status ≠ .busy → s.start = false → False := fun hb hs =>
    hact.elim hb fun hs' => Bool.noConfusion (hs.symm.trans hs')
  cases h with
  | works hb hw => cases (hw.status_eq.trans hb).symm.trans he
  | ends _ hend => cases hend.status_eq.symm.trans he
  | raises _ hb hc _ => exact ⟨rfl, hc.imp (⟨hb, ·⟩) (Or.imp_right (⟨hb, ·⟩))⟩
  | starts => cases he
  | startFails _ _ _ hc _ => exact ⟨rfl, .inr (.inl hc)⟩
  | callOver _ _ hb hs | saveStarts _ _ _ hb hs | loadStarts _ _ _ _ _ hb hs => exact (hidle hb hs).elim

/-! ### `BMP_PARSE` -/

theorem infoCause_mem {inLen headerSize : Nat} {c : ErrCause} (h : infoCause inLen headerSize = some c) :
    c ∈ bmpCauses := by
  unfold infoCause at h
  split at h
  · cases h; decide
  · split at h
    · cases h; decide
    · split at h
      · cases h; decide
      · cases h

theorem errCause_of_readFileHeader {f : BmpFileFields} (hb : s.status = .busy) (h : readFileHeader f s = .next t)
    (he : t.status = .error) : t.errCause ∈ bmpCauses := by
  rcases readFileHeader_eq_next h with rfl | ⟨-, rfl⟩
  · exact (by decide : ErrCause.bmpShortFileHeader ∈ bmpCauses)
  · cases hb.symm.trans he

theorem errCause_of_readInfoHeader {f : BmpInfoFields} (h : readInfoHeader f s = .next t)
    (he : t.status = .error) : t.errCause ∈ bmpCauses := by
  rcases readInfoHeader_eq_next h with ⟨c, hc, rfl⟩ | ⟨-, rfl⟩
  · exact infoCause_mem hc
  · cases he

/-- The micro-step of `BMP_PARSE` (R152): one of its causes raised, or one of its two records read. -/
theorem bmpParseStep_eq_next (h : bmpParseStep s = .next t) :
    (∃ c ∈ bmpCauses, t = s.raiseError c) ∨ (∃ f, readFileHeader f s = .next t) ∨
      ∃ f, readInfoHeader f s = .next t := by
  have hraise : ∀ c ∈ bmpCauses, raise c s = .next t → ∃ c ∈ bmpCauses, t = s.raiseError c := fun c hc e =>
    ⟨c, hc, (Host.Outcome.next.inj e).symm⟩
  unfold bmpParseStep at h
  split at h
  · split at h
    · exact .inl (hraise _ (by decide) h)
    · obtain ⟨bs, -, h⟩ := withBytes_eq_next.mp h
      split at h
      · exact .inr (.inl ⟨_, h⟩)
      · exact .inl (hraise _ (by decide) h)
  · split at h
    · exact .inl (hraise _ (by decide) h)
    · obtain ⟨hs, -, h⟩ := withBytes_eq_next.mp h
      split at h
      · rename_i c hc
        exact .inl (hraise c (infoCause_mem hc) h)
      · obtain ⟨bs, -, h⟩ := withBytes_eq_next.mp h
        exact .inr (.inr ⟨_, h⟩)

theorem errCause_of_bmpParseStep (hb : s.status = .busy) (h : bmpParseStep s = .next t) (he : t.status = .error) :
    t.errCause ∈ bmpCauses := by
  rcases bmpParseStep_eq_next h with ⟨c, hc, rfl⟩ | ⟨f, h⟩ | ⟨f, h⟩
  · exact hc
  · exact errCause_of_readFileHeader hb h he
  · exact errCause_of_readInfoHeader h he

/-- A step of running `BMP_PARSE` is one of its records or its own micro-step. -/
theorem errCause_of_running_bmpParse (hb : s.status = .busy) (hc : s.cmd = cmdBmpParse) (h : step s = .next t)
    (he : t.status = .error) : t.errCause ∈ bmpCauses := by
  have hown : exec (decodeCommand s.cmd) s = .next t → t.errCause ∈ bmpCauses := fun h => by
    rw [hc] at h
    exact errCause_of_bmpParseStep hb ((command_busy hb hc).symm.trans h) he
  have hst := streamAtCursor_bmpParse hc
  by_cases hip : s.ip = 0
  · obtain ⟨bs, -, ⟨i, rest, hd, h⟩ | h⟩ := step_stream_eq_next hb (hst.trans (if_pos hip)) h
    · obtain ⟨f, rfl⟩ := decodeBmpFile_unit hd
      exact errCause_of_readFileHeader hb ((execBmpFileHdr_running hb hc hip).symm.trans h) he
    · exact hown h
  · obtain ⟨bs, -, ⟨i, rest, hd, h⟩ | h⟩ := step_stream_eq_next hb (hst.trans (if_neg hip)) h
    · obtain ⟨f, rfl⟩ := decodeBmpInfo_unit hd
      rw [exec_bmpInfoHdr, execBmpInfoHdr] at h
      split at h
      · exact errCause_of_readInfoHeader h he
      · cases h
    · exact hown h

/-! ### `LZW_DEC` -/

theorem errCause_of_codeWord {code : Nat} (hb : s.status = .busy) (h : codeWord code s = .next t)
    (he : t.status = .error) : t.errCause ∈ lzwDecCauses := by
  rcases codeWord_eq_next h with rfl | ⟨-, -, entry, -, rfl⟩ | ⟨p, b, bs, -, -, rfl⟩
  · exact (by decide : ErrCause.lzwBadCode ∈ lzwDecCauses)
  · cases hb.symm.trans he
  · cases hb.symm.trans he

theorem errCause_of_running_lzwDec (hb : s.status = .busy) (hc : s.cmd = cmdLzwDec) (h : step s = .next t)
    (he : t.status = .error) : t.errCause ∈ lzwDecCauses := by
  rcases lzwDecStep_eq_next (lzwDecStep_of_step hb hc h) with ⟨-, bs, -, ⟨-, rfl⟩ | ⟨-, hcode⟩⟩ | ⟨-, rfl⟩
  · exact (by decide : ErrCause.lzwBadLength ∈ lzwDecCauses)
  · exact errCause_of_codeWord hb hcode he
  · cases he

/-- The start of `LZW_DEC` (R186, R187). -/
theorem errCause_of_start_lzwDec (hb : s.status ≠ .busy) (h : exec .lzwDec s = .next t) (he : t.status = .error) :
    t.errCause ∈ lzwDecCauses := by
  rw [exec_lzwDec_not_busy hb] at h
  obtain ⟨u, hu, h⟩ := andThen_eq_next.mp h
  obtain ⟨-, rfl⟩ := launch_eq_next.mp hu
  rcases lzwDecChecks_eq_next h with ⟨-, -, rfl⟩ | ⟨-, -, rfl⟩ | ⟨-, -, rfl⟩
  · cases he
  · exact (by decide : ErrCause.lzwBadLength ∈ lzwDecCauses)
  · exact (by decide : ErrCause.lzwBadWidth ∈ lzwDecCauses)

theorem errCause_of_step_lzwDec (hact : s.status = .busy ∨ s.start = true) (hc : s.cmd = cmdLzwDec)
    (h : step s = .next t) (he : t.status = .error) : t.errCause ∈ lzwDecCauses := by
  by_cases hb : s.status = .busy
  · exact errCause_of_running_lzwDec hb hc h he
  · rw [step_start hb (hact.resolve_left hb), hc] at h
    exact errCause_of_start_lzwDec hb h he

/-! ### `LZ77_DEC` -/

theorem errCause_of_litToken {v : Byte} (hb : s.status = .busy) (h : litToken v s = .next t)
    (he : t.status = .error) : t.errCause ∈ lz77DecCauses := by
  rcases litToken_eq_next h with ⟨-, rfl⟩ | ⟨-, rfl⟩
  · exact (by decide : ErrCause.lzTruncated ∈ lz77DecCauses)
  · cases hb.symm.trans he

theorem errCause_of_matchToken {d l : Nat} (hb : s.status = .busy) (h : matchToken d l s = .next t)
    (he : t.status = .error) : t.errCause ∈ lz77DecCauses := by
  rcases matchToken_eq_next h with ⟨-, rfl⟩ | ⟨-, rfl⟩ | ⟨-, -, -, bs, -, rfl⟩
  · exact (by decide : ErrCause.lzTruncated ∈ lz77DecCauses)
  · exact (by decide : ErrCause.lzBadDistance ∈ lz77DecCauses)
  · cases hb.symm.trans he

theorem errCause_of_lz77DecStep (hb : s.status = .busy) (h : lz77DecStep s = .next t) (he : t.status = .error) :
    t.errCause ∈ lz77DecCauses := by
  rcases lz77DecStep_eq_next h with
    ⟨-, bs, -, ⟨v, rest, -, hlit⟩ | ⟨d, l, rest, -, hmatch⟩ | ⟨-, rfl⟩ | ⟨-, rfl⟩⟩ | ⟨-, rfl⟩
  · exact errCause_of_litToken hb hlit he
  · exact errCause_of_matchToken hb hmatch he
  · exact (by decide : ErrCause.lzBadFlag ∈ lz77DecCauses)
  · exact (by decide : ErrCause.lzTruncated ∈ lz77DecCauses)
  · cases he

/-- A step of running `LZ77_DEC` is a token or its own micro-step. -/
theorem errCause_of_running_lz77Dec (hb : s.status = .busy) (hc : s.cmd = cmdLz77Dec) (h : step s = .next t)
    (he : t.status = .error) : t.errCause ∈ lz77DecCauses := by
  have hruns : s.runs cmdLz77Dec = true := runs_eq_true.mpr ⟨hb, hc⟩
  obtain ⟨bs, -, ⟨i, rest, hd, h⟩ | h⟩ := step_stream_eq_next hb (streamAtCursor_lz77Dec hc) h
  · rcases decodeToken_unit hd with ⟨v, rfl⟩ | ⟨d, l, rfl⟩
    · exact errCause_of_litToken hb ((if_pos hruns).symm.trans h) he
    · exact errCause_of_matchToken hb ((if_pos hruns).symm.trans h) he
  · rw [hc] at h
    exact errCause_of_lz77DecStep hb ((command_busy hb hc).symm.trans h) he

/-! ### The kinds (R301 to R303) -/

theorem kind_of_mem_bmpCauses {c : ErrCause} (h : c ∈ bmpCauses) :
    c.kind = .format ∧ c ∈ [ErrCause.bmpShortFileHeader, .bmpBadSignature, .bmpShortInfoHeader] ∨
      c.kind = .unsupported ∧ c = .bmpInfoTooSmall := by
  revert c
  decide

theorem kind_of_mem_lzwDecCauses {c : ErrCause} (h : c ∈ lzwDecCauses) : c.kind = .corruption := by
  revert c
  decide

theorem kind_of_mem_lz77DecCauses {c : ErrCause} (h : c ∈ lz77DecCauses) : c.kind = .corruption := by
  revert c
  decide

end

/-- Settles O16: the transition says which operations can raise, and each of them has its own causes. -/
theorem errorCausesByOperation : Obligations.ErrorCausesByOperation := by
  intro s t hact h he
  obtain ⟨hkind, hop⟩ := (transition_of_step h).error_cases hact he
  rw [hkind]
  rcases hop with ⟨hb, hc⟩ | hc | ⟨hb, hc⟩
  · exact .inl ⟨hc, kind_of_mem_bmpCauses (errCause_of_running_bmpParse hb hc h he)⟩
  · have hcause := errCause_of_step_lzwDec hact hc h he
    exact .inr (.inl ⟨hc, kind_of_mem_lzwDecCauses hcause, hcause⟩)
  · have hcause := errCause_of_running_lz77Dec hb hc h he
    exact .inr (.inr ⟨hc, kind_of_mem_lz77DecCauses hcause, hcause⟩)

end Sys2Proof.Machine
end

section
/-! SUPPORT. A code list as a byte string: the largest code, the width that holds every code, and the code words at
their addresses (R177 to R179, R184, R187). -/

namespace Sys2Proof.Machine

section
variable {codes : List Nat}

/-! ### The largest code and the width (R177, R178) -/

theorem maxCode_lt_iff {n : Nat} (hn : 0 < n) : maxCode codes < n ↔ ∀ c ∈ codes, c < n := by
  induction codes with
  | nil => simpa [maxCode] using hn
  | cons c codes ih =>
    rw [List.forall_mem_cons, ← ih]
    exact max_lt_iff

theorem le_maxCode {c : Nat} (h : c ∈ codes) : c ≤ maxCode codes :=
  Nat.le_of_lt_succ ((maxCode_lt_iff (Nat.succ_pos _)).mp (Nat.lt_succ_self _) c h)

theorem codeWidth_mem_lzwWidths (codes : List Nat) : codeWidth codes ∈ Config.lzwWidths := by
  unfold codeWidth
  split
  · decide
  · split <;> decide

/-- The width holds every code (R178), where four bytes hold them (R184). -/
theorem lt_pow_codeWidth (h : maxCode codes < Config.lzwCodeBound) : ∀ c ∈ codes, c < 256 ^ codeWidth codes := by
  have h2 : Config.lzwW2Max < 256 ^ 2 := by decide
  have h3 : Config.lzwW3Max < 256 ^ 3 := by decide
  refine (maxCode_lt_iff (Nat.pow_pos (by decide))).mp ?_
  unfold codeWidth
  split
  · omega
  · split
    · omega
    · exact h

/-- No smaller width holds every code (R178). -/
theorem codeWidth_le_of_lt_pow {w : Nat} (hw : 2 ≤ w) (h : ∀ c ∈ codes, c < 256 ^ w) : codeWidth codes ≤ w := by
  have h2 : 256 ^ 2 = Config.lzwW2Max + 1 := by decide
  have h3 : 256 ^ 3 = Config.lzwW3Max + 1 := by decide
  have hmax : maxCode codes < 256 ^ w := (maxCode_lt_iff (Nat.pow_pos (by decide))).mpr h
  unfold codeWidth
  split
  · exact hw
  · have hne2 : w ≠ 2 := by rintro rfl; omega
    split
    · omega
    · have hne3 : w ≠ 3 := by rintro rfl; omega
      omega

/-! ### The code words in order (R179) -/

@[simp] theorem serialise_cons (w c : Nat) (codes : List Nat) :
    serialise w (c :: codes) = toBe w c ++ serialise w codes := rfl

/-- Code word `n` stands at the offset `w * n`. -/
theorem slice_serialise {w n c : Nat} (h : codes[n]? = some c) : slice (serialise w codes) (w * n) w = toBe w c := by
  have hlen : (toBe w c).length = w := toBe_length w c
  induction codes generalizing n with
  | nil => cases h
  | cons d codes ih =>
    cases n with
    | zero =>
      obtain rfl : d = c := Option.some.inj h
      exact List.take_left' hlen
    | succ n =>
      have hdrop : (serialise w (d :: codes)).drop (w * (n + 1)) = (serialise w codes).drop (w * n) := by
        rw [Nat.mul_succ, Nat.add_comm, ← List.drop_drop, serialise_cons, List.drop_left' (toBe_length w d)]
      rw [slice, hdrop]
      exact ih h

/-- Reading the code words of a stream gives the codes back (R179, R187). -/
theorem lzwWords_serialise {w : Nat} (h : ∀ c ∈ codes, c < 256 ^ w) :
    lzwWords w codes.length (serialise w codes) = codes := by
  induction codes with
  | nil => rfl
  | cons c codes ih =>
    obtain ⟨hc, hcodes⟩ := List.forall_mem_cons.mp h
    rw [List.length_cons, lzwWords, serialise_cons, List.take_left' (toBe_length w c),
      List.drop_left' (toBe_length w c), beNat_toBe, Nat.mod_eq_of_lt hc, ih hcodes]

/-- `LZW_DEC` reads the stream of a code list as these codes. -/
theorem lzwDecodeBytes_serialise {w : Nat} (policy : Config.WidthPolicy) (hw : w ∈ Config.lzwWidths)
    (h : ∀ c ∈ codes, c < 256 ^ w) :
    lzwDecodeBytes policy w (serialise w codes) = lzwDecodeFrom seedTable Config.lzwFirstCode none codes := by
  have hpos : 0 < w := Nat.pos_of_ne_zero fun e => by simp [e, Config.lzwWidths] at hw
  unfold lzwDecodeBytes
  rw [if_pos hw, serialise_length, if_pos (Nat.mul_mod_left _ _), Nat.mul_div_cancel _ hpos, lzwWords_serialise h]

end

end Sys2Proof.Machine
end

section
/-! SUPPORT. The codes `LZW_ENC` emits: each is below `next_code` (R181), and `next_code` grows at most with every
second byte once the phrases of two bytes are used up (R184). -/

namespace Sys2Proof.Machine

/-- Every binding of `DICT` is below `next_code` (R29 (ii)). -/
def CodesBelow (dict : List (Phrase × Nat)) (nextCode : Nat) : Prop :=
  ∀ p c, dictLookup dict p = some c → c < nextCode

/-- The seeds bind single bytes to their own values, and nothing else (R171). -/
theorem dictLookup_seedDict_eq_some {p : Phrase} {c : Nat} (h : dictLookup seedDict p = some c) :
    ∃ b : Byte, p = [b] ∧ c = b.toNat := by
  rw [seededDict_seedDict p] at h
  split at h
  · exact ⟨_, rfl, (Option.some.inj h).symm⟩
  · cases h

theorem codesBelow_seedDict : CodesBelow seedDict Config.lzwFirstCode := by
  intro p c h
  obtain ⟨b, -, rfl⟩ := dictLookup_seedDict_eq_some h
  exact b.isLt

section
variable {dict : List (Phrase × Nat)} {nextCode : Nat} {w : Phrase}

theorem CodesBelow.miss (h : CodesBelow dict nextCode) (p : Phrase) :
    CodesBelow ((p, nextCode) :: dict) (nextCode + 1) := by
  intro q c hq
  rw [dictLookup_cons] at hq
  split at hq
  · obtain rfl := Option.some.inj hq
    exact Nat.lt_succ_self _
  · exact Nat.lt_succ_of_lt (h q c hq)

theorem CodesBelow.codeOf_lt (h : CodesBelow dict nextCode) (hpos : 0 < nextCode) (p : Phrase) :
    codeOf dict p < nextCode := by
  cases hp : dictLookup dict p with
  | none => simpa [codeOf, hp] using hpos
  | some c => simpa [codeOf, hp] using h p c hp

/-! ### The codes from a state of the encoder on (R174 to R176) -/

theorem lzwCodesFrom_nil (hw : w ≠ []) : lzwCodesFrom dict nextCode w [] = [codeOf dict w] := if_neg hw

theorem eq_codeOf_of_mem_lzwCodesFrom_nil {c : Nat} (h : c ∈ lzwCodesFrom dict nextCode w []) :
    c = codeOf dict w := by
  by_cases hw : w = []
  · simp [hw, lzwCodesFrom] at h
  · rw [lzwCodesFrom_nil hw] at h
    exact List.mem_singleton.mp h

theorem lzwCodesFrom_hit {k : Byte} (h : (dictLookup dict (w ++ [k])).isSome = true) (rest : Bytes) :
    lzwCodesFrom dict nextCode w (k :: rest) = lzwCodesFrom dict nextCode (w ++ [k]) rest := by
  obtain ⟨c, hc⟩ := Option.isSome_iff_exists.mp h
  rw [lzwCodesFrom, hc]

theorem lzwCodesFrom_miss {k : Byte} (h : dictLookup dict (w ++ [k]) = none) (rest : Bytes) :
    lzwCodesFrom dict nextCode w (k :: rest) =
      codeOf dict w :: lzwCodesFrom ((w ++ [k], nextCode) :: dict) (nextCode + 1) [k] rest := by
  rw [lzwCodesFrom, h]

/-- A candidate of one byte is a seed, so at a miss there is a `w` to emit. -/
theorem PrefixBound.ne_nil_of_miss (h : PrefixBound dict w) {k : Byte} (hk : dictLookup dict (w ++ [k]) = none) :
    w ≠ [] := by
  rintro rfl
  have hseed := h.seedsBound k
  rw [List.nil_append] at hk
  simp [hk] at hseed

/-! ### Bounds of the code list (R181) -/

theorem lzwCodesFrom_ne_nil {rest : Bytes} (h : w ++ rest ≠ []) : lzwCodesFrom dict nextCode w rest ≠ [] := by
  induction rest generalizing w with
  | nil =>
    rw [lzwCodesFrom_nil (by simpa using h)]
    exact List.cons_ne_nil _ _
  | cons k rest ih =>
    cases hk : dictLookup dict (w ++ [k]) with
    | some c =>
      rw [lzwCodesFrom_hit (by simp [hk])]
      exact ih (by simp)
    | none =>
      rw [lzwCodesFrom_miss hk]
      exact List.cons_ne_nil _ _

/-- One binding for each code: the code at index `n` is below the `next_code` of its emission. -/
theorem lzwCodesFrom_getElem?_lt {rest : Bytes} {n c : Nat} (hb : CodesBelow dict nextCode) (hpos : 0 < nextCode)
    (h : (lzwCodesFrom dict nextCode w rest)[n]? = some c) : c < nextCode + n := by
  induction rest generalizing dict nextCode w n with
  | nil =>
    obtain rfl := eq_codeOf_of_mem_lzwCodesFrom_nil (List.mem_of_getElem? h)
    exact Nat.lt_add_right n (hb.codeOf_lt hpos w)
  | cons k rest ih =>
    cases hk : dictLookup dict (w ++ [k]) with
    | some code =>
      rw [lzwCodesFrom_hit (by simp [hk])] at h
      exact ih hb hpos h
    | none =>
      rw [lzwCodesFrom_miss hk] at h
      cases n with
      | zero =>
        obtain rfl := Option.some.inj h
        exact hb.codeOf_lt hpos w
      | succ n =>
        have hlt := ih (hb.miss _) (Nat.succ_pos _) h
        omega

/-! ### The counting argument of R184 -/

/-- The phrases of two bytes that are no key yet. -/
def freePairs (dict : List (Phrase × Nat)) : Set (Byte × Byte) := {ab | dictLookup dict [ab.1, ab.2] = none}

theorem mem_freePairs {a b : Byte} : (a, b) ∈ freePairs dict ↔ dictLookup dict [a, b] = none := Iff.rfl

theorem ncard_freePairs_le (dict : List (Phrase × Nat)) : (freePairs dict).ncard ≤ 2 ^ 16 := by
  have hbyte : Nat.card Byte = 2 ^ 8 := by
    rw [Nat.card_eq_fintype_card, ← FinEnum.card_eq_fintypeCard, FinEnum.card_bitVec]
  calc (freePairs dict).ncard
      ≤ Nat.card (Byte × Byte) := Set.ncard_le_card _
    _ = 2 ^ 16 := by rw [Nat.card_prod, hbyte, ← pow_add]

theorem freePairs_cons_subset (p : Phrase) (c : Nat) : freePairs ((p, c) :: dict) ⊆ freePairs dict := by
  rintro ⟨a, b⟩ h
  rw [mem_freePairs, dictLookup_cons] at h
  split at h
  · cases h
  · exact h

/-- Binding a phrase of two bytes uses it up. -/
theorem ncard_freePairs_cons_lt {a b : Byte} (h : dictLookup dict [a, b] = none) (c : Nat) :
    (freePairs (([a, b], c) :: dict)).ncard < (freePairs dict).ncard := by
  have hused : (a, b) ∉ freePairs (([a, b], c) :: dict) := by
    rw [mem_freePairs, dictLookup_cons, if_pos rfl]
    nofun
  exact Set.ncard_lt_ncard ((Set.ssubset_iff_of_subset (freePairs_cons_subset _ c)).mpr ⟨(a, b), h, hused⟩)

/-- A miss emits two bytes or more, or it uses up a phrase of two bytes. -/
theorem ncard_freePairs_miss (hp : PrefixBound dict w) {k : Byte} (hk : dictLookup dict (w ++ [k]) = none) (c : Nat) :
    2 + (freePairs ((w ++ [k], c) :: dict)).ncard ≤ w.length + (freePairs dict).ncard := by
  have hle := Set.ncard_le_ncard (freePairs_cons_subset (dict := dict) (w ++ [k]) c)
  match w, hp.ne_nil_of_miss hk with
  | [a], _ =>
    have hlt : (freePairs (([a] ++ [k], c) :: dict)).ncard < (freePairs dict).ncard := ncard_freePairs_cons_lt hk c
    rw [List.length_singleton]
    omega
  | a :: b :: w, _ =>
    rw [List.length_cons, List.length_cons]
    omega

/-- `next_code` grows by at most one for every two bytes still to be emitted, beside the phrases of two bytes. -/
theorem lzwCodesFrom_lt {rest : Bytes} (hb : CodesBelow dict nextCode) (hpos : 0 < nextCode)
    (hp : PrefixBound dict w) :
    ∀ c ∈ lzwCodesFrom dict nextCode w rest,
      2 * c < 2 * nextCode + (w.length + rest.length) + (freePairs dict).ncard := by
  induction rest generalizing dict nextCode w with
  | nil =>
    intro c hc
    obtain rfl := eq_codeOf_of_mem_lzwCodesFrom_nil hc
    have hcode := hb.codeOf_lt hpos w
    omega
  | cons k rest ih =>
    intro c hc
    rw [List.length_cons]
    cases hk : dictLookup dict (w ++ [k]) with
    | some code =>
      have hsome : (dictLookup dict (w ++ [k])).isSome = true := by simp [hk]
      rw [lzwCodesFrom_hit hsome] at hc
      have hlt := ih hb hpos (hp.hit hsome) c hc
      rw [List.length_append, List.length_singleton] at hlt
      omega
    | none =>
      rw [lzwCodesFrom_miss hk] at hc
      rcases List.mem_cons.mp hc with rfl | hc
      · have hcode := hb.codeOf_lt hpos w
        omega
      · have hlt := ih (hb.miss _) (Nat.succ_pos _) (hp.miss k nextCode) c hc
        have hpairs := ncard_freePairs_miss hp hk nextCode
        rw [List.length_singleton] at hlt
        omega

end

theorem lzwCodes_lt {input : Bytes} (h : input.length ≤ 2 ^ 32 - 1) : ∀ c ∈ lzwCodes input, c < 2 ^ 32 := by
  intro c hc
  have hlt := lzwCodesFrom_lt codesBelow_seedDict (by decide) prefixBound_seedDict c hc
  have hpairs := ncard_freePairs_le seedDict
  simp only [Config.lzwFirstCode, List.length_nil] at hlt
  omega

/-- Settles O27: each part by induction over the input. -/
theorem lzwCodeListBounds : Obligations.LzwCodeListBounds := by
  refine fun input => ⟨lzwCodes_length input, fun hne => ?_, fun n c h => ?_⟩
  · exact List.length_pos_of_ne_nil (lzwCodesFrom_ne_nil hne)
  · have hlt : c < 256 + n := lzwCodesFrom_getElem?_lt codesBelow_seedDict (by decide) h
    omega

end Sys2Proof.Machine
end

section
/-! SUPPORT. One micro-step of `LZW_ENC`: the hit, the miss and the end (R174 to R179, R184). -/

namespace Sys2Proof.Machine

section
variable {s : State} {codes : List Nat}

theorem exec_lzwEnc_running (hb : s.status = .busy) (hc : s.cmd = cmdLzwEnc) : exec .lzwEnc s = lzwEncStep s :=
  command_busy hb hc

/-- The end (R176): the flush, where there is a `w`, and phase 2. -/
theorem lzwEncStep_flush (hip : s.inLen ≤ s.ip)
    (h : s.w = [] ∧ codes = s.codes ∨
      s.w ≠ [] ∧ ∃ code, dictLookup s.dict s.w = some code ∧ codes = s.codes ++ [code]) :
    lzwEncStep s = lzwFinish codes s := by
  rw [lzwEncStep, if_neg (Nat.not_lt_of_le hip)]
  rcases h with ⟨hw, rfl⟩ | ⟨hw, code, hcode, rfl⟩
  · rw [if_pos hw]
  · rw [if_neg hw, hcode]

theorem lzwFinish_tooWide (h : Config.lzwCodeBound ≤ maxCode codes) : lzwFinish codes s = .refused .codeTooWide :=
  if_pos h

theorem lzwFinish_fits (h : maxCode codes < Config.lzwCodeBound) (hcap : s.params.outCap = none) :
    lzwFinish codes s = .next { s.appended (serialise (codeWidth codes) codes) with
      codes := codes, side := BitVec.ofNat 8 (codeWidth codes), sideWritten := true, status := .done } := by
  rw [lzwFinish, if_neg (Nat.not_le_of_lt h), emit_unbounded hcap, andThen_next]

/-- A run of reads inside bytes just written is a slice of them. -/
theorem Memory.readBytes_writeBytes_slice (m : Memory) (a : Nat) {bs : Bytes} {off n : Nat}
    (h : off + n ≤ bs.length) : (m.writeBytes a bs).readBytes (a + off) n = some (slice bs off n) := by
  refine Memory.readBytes_eq_some.mpr ⟨by rw [slice_length]; omega, fun i hi => ?_⟩
  have hoff : a + off + i - a = off + i := by omega
  rw [Memory.read_writeBytes, if_pos (by omega), hoff, slice, List.getElem?_take_of_lt hi, List.getElem?_drop]

/-- Code word `n` of the stream in `OUT` (R179). -/
theorem readBytes_serialise (m : Memory) (a : Nat) {w n c : Nat} (h : codes[n]? = some c) :
    (m.writeBytes a (serialise w codes)).readBytes (a + w * n) w = some (toBe w c) := by
  obtain ⟨hn, -⟩ := List.getElem?_eq_some_iff.mp h
  have hroom : w * n + w ≤ (serialise w codes).length := by
    rw [serialise_length, Nat.mul_comm codes.length, ← Nat.mul_succ]
    exact Nat.mul_le_mul_left w hn
  rw [Memory.readBytes_writeBytes_slice m a hroom, slice_serialise h]

end

/-- Settles O23: the hit changes `w` and the cursor. -/
theorem lzwEncHit : Obligations.LzwEncHit :=
  fun _ _ hb hc hip hk h => (exec_lzwEnc_running hb hc).trans (lzwEncStep_hit hip hk h)

/-- Settles O24: the miss puts one binding before the others. -/
theorem lzwEncMiss : Obligations.LzwEncMiss := by
  intro k code s hb hc hip hk h hcode hfits
  refine ⟨lzwMiss k code s, ?_, rfl, fun p => ?_⟩
  · rw [exec_lzwEnc_running hb hc, lzwEncStep_miss hip hk h hcode, if_pos hfits]
  · rw [lzwMiss_dict, dictLookup_cons]
    simp only [eq_comm]

/-- Settles O25: the flush leads to phase 2, which appends the code words at the width of R178. -/
theorem lzwEncEnd : Obligations.LzwEncEnd := by
  intro codes s hb hc hip hcodes hfour hcap
  have hmax : maxCode codes < Config.lzwCodeBound := (maxCode_lt_iff (by decide)).mpr hfour
  have hw : codeWidth codes = 2 ∨ codeWidth codes = 3 ∨ codeWidth codes = 4 := by
    simpa [Config.lzwWidths] using codeWidth_mem_lzwWidths codes
  have hfits := lt_pow_codeWidth hmax
  have hlen : (serialise (codeWidth codes) codes).length = codeWidth codes * codes.length := by
    rw [serialise_length, Nat.mul_comm]
  have hrun := (exec_lzwEnc_running hb hc).trans ((lzwEncStep_flush hip hcodes).trans (lzwFinish_fits hmax hcap))
  refine ⟨_, codeWidth codes, hrun, hw, hfits, fun w h2 h => codeWidth_le_of_lt_pow h2 h, ?_, fun n c h => ?_,
    fun a ha => ?_⟩
  · rw [← hlen]
    rfl
  · refine ⟨_, readBytes_serialise s.out s.outLen h, ?_⟩
    rw [beNat_toBe, Nat.mod_eq_of_lt (hfits c (List.mem_of_getElem? h))]
  · exact read_out_appended s (serialise (codeWidth codes) codes) (by rwa [hlen])

/-- Settles O26: the bound by the counting argument of `lzwCodesFrom_lt`, the refusal by phase 2. -/
theorem lzwCodesFitFourBytes : Obligations.LzwCodesFitFourBytes := by
  refine ⟨fun _ => lzwCodes_lt, fun code c s hb hc hip hw hcode hmem hbig => ?_⟩
  rw [exec_lzwEnc_running hb hc, lzwEncStep_flush hip (.inr ⟨hw, code, hcode, rfl⟩),
    lzwFinish_tooWide (Nat.le_trans hbig (le_maxCode hmem))]

end Sys2Proof.Machine
end

section
/-! SUPPORT. The start of `LZW_DEC`, its code words after the first, and the end of the operations that end by the
cursor (R185 to R193, R228, R236, R250). -/

namespace Sys2Proof.Machine

/-! ### The start (R185 to R187) -/

theorem side_mem_lzwWidths {side : BitVec 8} : side.toNat ∈ Config.lzwWidths ↔ side = 2 ∨ side = 3 ∨ side = 4 := by
  simp [Config.lzwWidths, BitVec.toNat_eq]

theorem LaunchPremises.exec_lzwDec {s : State} (h : LaunchPremises cmdLzwDec s) (hb : s.status ≠ .busy)
    (hd : dictFits s.params 255 = true) : exec .lzwDec s = lzwDecChecks (s.started cmdLzwDec) := by
  rw [exec_lzwDec_not_busy hb, h.launch_eq fun _ => hd, andThen_next]

/-- Settles O11: a well-formed launch makes the two checks of R186 and R187 on the state at the start. -/
theorem launchLzwDec : Obligations.LaunchLzwDec := by
  intro s hb hprem hd
  rw [hprem.exec_lzwDec hb hd, ← side_mem_lzwWidths]
  exact ⟨s.started cmdLzwDec, started_atStart cmdLzwDec s, rfl, rfl, rfl, tableLookup_seed,
    fun hw hl => lzwDecChecks_pass hw hl, fun hw hl => lzwDecChecks_badLength hw hl,
    fun hw hp => lzwDecChecks_badWidth_fault hw hp, fun hw hp => lzwDecChecks_badWidth_refuse hw hp⟩

/-! ### A code word after the first (R189 to R192) -/

section
variable {s : State} {p bs : Phrase} {b : Byte} {code : Nat}

theorem codeWord_next (hp : s.prev = some p) (heq : code = s.nextCode) (hhead : p.head? = some b) :
    codeWord code s = andThen (bindEntry p (p ++ [b]) s) (emitEntry (p ++ [b])) := by
  cases p with
  | nil => cases hhead
  | cons k ps =>
    obtain rfl := Option.some.inj hhead
    simp [codeWord, hp, heq]

theorem codeWord_above (hp : s.prev = some p) (h : s.nextCode < code) :
    codeWord code s = .next (s.raiseError .lzwBadCode) := by
  simp only [codeWord, hp, if_neg (Nat.not_lt_of_gt h), if_neg (Nat.ne_of_gt h), raise_eq]

theorem emitEntry_fits {entry : Phrase} (h : outFits s.params (s.outLen + entry.length) = true) :
    emitEntry entry s = .next { s.appended entry with prev := some entry, ip := s.ip + s.width } := by
  rw [emitEntry, emit_eq_next.mpr ⟨h, rfl⟩, andThen_next]
  rfl

/-- The binding of R192 and the append, where both capacities have room. -/
theorem bindEntry_emitEntry_fits (hdict : dictFits s.params s.nextCode = true)
    (hout : outFits s.params (s.outLen + (b :: bs).length) = true) :
    andThen (bindEntry p (b :: bs) s) (emitEntry (b :: bs)) =
      .next { s.appended (b :: bs) with
        table := (s.nextCode, p ++ [b]) :: s.table, nextCode := s.nextCode + 1
        prev := some (b :: bs), ip := s.ip + s.width } := by
  rw [bindEntry_cons, if_pos hdict, andThen_next]
  exact emitEntry_fits
    (s := { s with table := (s.nextCode, p ++ [b]) :: s.table, nextCode := s.nextCode + 1 }) hout

/-- Word `i` of the table of R32 finds `next_code = 256 + i - 1`. -/
theorem TableSound.nextCode_of_prev (h : TableSound s) (hp : s.prev = some p) :
    s.nextCode = 256 + s.ip / s.width - 1 ∧ 1 ≤ s.ip / s.width := by
  have hip : s.ip ≠ 0 := fun e => by simp [h.prevNone.mpr e] at hp
  have hdvd : s.width ∣ s.ip := Nat.dvd_of_mod_eq_zero h.wholeWords.2
  have hword : 0 < s.ip / s.width := Nat.div_pos (Nat.le_of_dvd (Nat.pos_of_ne_zero hip) hdvd) h.width_pos
  have hlag : s.nextCode = 256 + (s.ip / s.width - 1) := h.nextCodeLags
  omega

end

/-- Settles O31: a registered code and the code `next_code` differ only in where the phrase comes from. -/
theorem codeWordAfterFirst : Obligations.CodeWordAfterFirst := by
  intro i w code p b bs s hunit hb hc hw hp hlegal hdict hout
  have hexec : exec i s = codeWord code s := (exec_of_codeUnit hunit s).trans (codeWordAt_running hb hc hw)
  have hword : codeWord code s = andThen (bindEntry p (b :: bs) s) (emitEntry (b :: bs)) := by
    rcases hlegal with ⟨hlt, hl⟩ | ⟨heq, hhead, hphrase⟩
    · exact codeWord_registered hp hlt hl
    · rw [hphrase]
      exact codeWord_next hp heq hhead
  refine ⟨_, hexec.trans (hword.trans (bindEntry_emitEntry_fits hdict hout)), ?_, stores_appended s (b :: bs),
    fun c => ?_⟩
  · rw [← hw]
    rfl
  · rw [tableLookup_cons]
    simp only [eq_comm]

/-- Settles O32: nothing is bound above `next_code`, which lags one word behind. -/
theorem illegalCodeWord : Obligations.IllegalCodeWord := by
  intro i w code p s hunit hb hc hw hp hgt
  have hexec : exec i s = codeWord code s := (exec_of_codeUnit hunit s).trans (codeWordAt_running hb hc hw)
  exact ⟨hexec.trans (codeWord_above hp hgt), fun h => hw ▸ h.nextCode_of_prev hp⟩

/-! ### The end of the input -/

/-- Settles O33: the end of each operation's micro-step. -/
theorem endOfInput : Obligations.EndOfInput := by
  intro s hb hip
  have hend : s.inLen ≤ s.ip := Nat.le_of_eq hip.symm
  refine ⟨fun hc => ?_, fun hc => ?_, fun hc => ?_⟩
  · have hrun := exec_lzwDec_running hb hc
    rw [hc] at hrun
    exact hrun.trans (lzwDecStep_end hend)
  · exact (command_busy hb hc).trans (lz77DecStep_end hend)
  · exact (command_busy hb hc).trans (lz77EncStep_end hend)

end Sys2Proof.Machine
end

section
/-! SUPPORT. The round trip of the dictionary codec (R197): encoder and decoder move in lockstep, the decoder one
binding behind. -/

namespace Sys2Proof.Machine

/-- The encoder has emitted the codes before `w`, and the decoder has read them: with the binding that it makes once it
knows the first byte of `w` (R192), its table holds all of the encoder's dictionary. -/
structure Lockstep (dict : List (Phrase × Nat)) (nextCode : Nat) (w : Phrase) (table : List (Nat × Phrase))
    (lagCode : Nat) (prev : Option Phrase) : Prop where
  prefixBound : PrefixBound dict w
  below : CodesBelow dict nextCode
  mirrored : ∀ p c, dictLookup dict p = some c → tableLookup (tableAfter table lagCode prev w) c = some p
  lags : nextCode = nextCodeAfter lagCode prev
  firstWord : prev = none → nextCode = Config.lzwFirstCode
  wNonempty : prev ≠ none → w ≠ []
  prevNonempty : prev ≠ some []

theorem lockstep_start : Lockstep seedDict Config.lzwFirstCode [] seedTable Config.lzwFirstCode none where
  prefixBound := prefixBound_seedDict
  below := codesBelow_seedDict
  mirrored := by
    intro p c h
    obtain ⟨b, rfl, rfl⟩ := dictLookup_seedDict_eq_some h
    have hb : b.toNat < Config.lzwSeedCount := b.isLt
    rw [tableAfter, tableLookup_seed, if_pos hb, BitVec.ofNat_toNat, BitVec.setWidth_eq]
  lags := rfl
  firstWord := fun _ => rfl
  wNonempty := fun h => absurd rfl h
  prevNonempty := nofun

section
variable {dict : List (Phrase × Nat)} {nextCode lagCode : Nat} {w : Phrase} {table : List (Nat × Phrase)}
  {prev : Option Phrase}

/-- The decoder's late binding depends only on the first byte of `w`, which a hit keeps. -/
theorem tableAfter_append (h : prev ≠ none → w ≠ []) (k : Byte) :
    tableAfter table lagCode prev (w ++ [k]) = tableAfter table lagCode prev w := by
  cases prev with
  | none => rfl
  | some p =>
    obtain ⟨b, bs, rfl⟩ := List.exists_cons_of_ne_nil (h nofun)
    rfl

theorem Lockstep.hit (h : Lockstep dict nextCode w table lagCode prev) {k : Byte}
    (hk : (dictLookup dict (w ++ [k])).isSome = true) : Lockstep dict nextCode (w ++ [k]) table lagCode prev where
  prefixBound := h.prefixBound.hit hk
  below := h.below
  mirrored := by rw [tableAfter_append h.wNonempty]; exact h.mirrored
  lags := h.lags
  firstWord := h.firstWord
  wNonempty := fun _ => by simp
  prevNonempty := h.prevNonempty

/-- The encoder emits `w` and binds it with `k`; the decoder reads `w`, makes its late binding, and owes the new one. -/
theorem Lockstep.miss (h : Lockstep dict nextCode w table lagCode prev) {k : Byte}
    (hk : dictLookup dict (w ++ [k]) = none) :
    Lockstep ((w ++ [k], nextCode) :: dict) (nextCode + 1) [k] (tableAfter table lagCode prev w)
      (nextCodeAfter lagCode prev) (some w) where
  prefixBound := h.prefixBound.miss k nextCode
  below := h.below.miss _
  mirrored := by
    intro p c hp
    rw [← h.lags, tableAfter, tableLookup_cons]
    rw [dictLookup_cons] at hp
    split at hp
    · obtain rfl := Option.some.inj hp
      rw [if_pos rfl, ← ‹w ++ [k] = p›]
      rfl
    · rw [if_neg (Nat.ne_of_gt (h.below p c hp))]
      exact h.mirrored p c hp
  lags := by rw [← h.lags]; rfl
  firstWord := nofun
  wNonempty := fun _ => List.cons_ne_nil _ _
  prevNonempty := fun e => h.prefixBound.ne_nil_of_miss hk (Option.some.inj e)

/-- The decoder reads the code of `w` as `w`: it is registered, or it is the late binding itself, and then `w` begins
with `prev` and so with its first byte (R189, R190). -/
theorem Lockstep.lzwEntry_eq (h : Lockstep dict nextCode w table lagCode prev) (hw : w ≠ []) :
    lzwEntry table lagCode prev (codeOf dict w) = some w := by
  obtain ⟨c, hc⟩ := Option.isSome_iff_exists.mp (h.prefixBound.prefixBound.resolve_left hw)
  have hcode : codeOf dict w = c := by simp [codeOf, hc]
  have hlt := h.below w c hc
  have hread := h.mirrored w c hc
  rw [hcode]
  cases prev with
  | none =>
    rw [h.firstWord rfl] at hlt
    exact (if_pos hlt).trans hread
  | some p =>
    rw [h.lags, nextCodeAfter] at hlt
    rw [tableAfter, tableLookup_cons] at hread
    split at hread
    · rename_i heq
      obtain ⟨b, ps, rfl⟩ := List.exists_cons_of_ne_nil fun e => h.prevNonempty (congrArg some e)
      have hphrase := Option.some.inj hread
      have hfirst : w.take 1 = [b] := by rw [← hphrase]; rfl
      rw [hfirst] at hphrase
      simp [lzwEntry, ← heq, ← hphrase]
    · have hreg : c < lagCode := by omega
      exact (if_pos hreg).trans hread

/-- Decoding the codes still to be emitted gives `w` and the bytes still to be read. -/
theorem Lockstep.decode (h : Lockstep dict nextCode w table lagCode prev) (rest : Bytes) :
    lzwDecodeFrom table lagCode prev (lzwCodesFrom dict nextCode w rest) = .ok (w ++ rest) := by
  induction rest generalizing dict nextCode w table lagCode prev with
  | nil =>
    by_cases hw : w = []
    · subst hw
      rfl
    · rw [lzwCodesFrom_nil hw, lzwDecodeFrom_legal (h.lzwEntry_eq hw)]
      rfl
  | cons k rest ih =>
    cases hk : dictLookup dict (w ++ [k]) with
    | some c =>
      have hsome : (dictLookup dict (w ++ [k])).isSome = true := by simp [hk]
      rw [lzwCodesFrom_hit hsome, ih (h.hit hsome), List.append_assoc, List.singleton_append]
    | none =>
      rw [lzwCodesFrom_miss hk, lzwDecodeFrom_legal (h.lzwEntry_eq (h.prefixBound.ne_nil_of_miss hk)),
        ih (h.miss hk)]
      rfl

end

/-- Settles O36: the stream is read as the codes of the input, and these decode in lockstep (`Lockstep.decode`). -/
theorem lzwRoundTrip : Obligations.LzwRoundTrip := by
  intro policy input stream w h
  simp only [lzwEncodeBytes] at h
  split at h
  · cases h
  · rename_i hbound
    obtain ⟨rfl, rfl⟩ := Prod.mk.inj (OpResult.ok.inj h)
    rw [lzwDecodeBytes_serialise policy (codeWidth_mem_lzwWidths _) (lt_pow_codeWidth (Nat.lt_of_not_le hbound))]
    exact lockstep_start.decode input

end Sys2Proof.Machine
end

section
/-! SUPPORT. The window search of `LZ77_ENC` (R223 to R225): which runs it finds, the longest of them, and the token
made of it (R226, R227). -/

namespace Sys2Proof.Machine

/-! ### The length of a run (R224) -/

theorem cons_agree_iff {l : Nat} {a b : Byte} {as bs : Bytes} :
    (∀ j, j < l + 1 → (a :: as)[j]? = (b :: bs)[j]?) ↔ a = b ∧ ∀ j, j < l → as[j]? = bs[j]? := by
  simp only [Nat.forall_lt_succ_left, List.getElem?_cons_zero, List.getElem?_cons_succ, Option.some.injEq]

theorem le_commonPrefix_iff {n l : Nat} {as bs : Bytes} :
    l ≤ commonPrefix n as bs ↔ l ≤ n ∧ l ≤ bs.length ∧ ∀ j, j < l → as[j]? = bs[j]? := by
  cases l with
  | zero => simp
  | succ l =>
    fun_induction commonPrefix n as bs generalizing l with
    | case1 n a as bs ih =>
      cases l with
      | zero => simp
      | succ l => rw [Nat.succ_le_succ_iff, ih, cons_agree_iff, List.length_cons]; simp
    | case2 n a as b bs hne => rw [cons_agree_iff]; simp [hne]
    | case3 n as bs hempty =>
      refine ⟨nofun, fun ⟨hn, hlen, hagree⟩ => ?_⟩
      obtain ⟨n, rfl⟩ := Nat.exists_eq_succ_of_ne_zero (Nat.ne_zero_of_lt hn)
      obtain ⟨b, bs, rfl⟩ := List.exists_cons_of_length_pos (Nat.zero_lt_of_lt hlen)
      cases as with
      | nil => simpa using hagree 0 (Nat.succ_pos l)
      | cons a as => exact (hempty n a as b bs rfl rfl rfl).elim

section
variable {tb : Config.TieBreak} {input : Bytes} {pos : Nat}

theorem le_matchLen_iff {d l : Nat} (hpos : pos ≤ input.length) :
    l ≤ matchLen input pos d ↔ RunAt input pos d l := by
  have hroom : l ≤ input.length - pos ↔ pos + l ≤ input.length := by omega
  simp only [matchLen, le_commonPrefix_iff, List.length_drop, List.getElem?_drop, hroom]
  rfl

/-! ### The longest run (R225) -/

theorem replaces_smallest {best l : Nat} : replaces .smallestDistance best l = true ↔ best < l := decide_eq_true_iff

/-- Under either tie-break a candidate replaces no longer one, and a longer one is always taken. -/
theorem replaces_bounds (tb : Config.TieBreak) (best l : Nat) :
    if replaces tb best l then best ≤ l else l ≤ best := by
  cases tb <;> simp only [replaces, decide_eq_true_eq] <;> split <;> omega

/-- The answer of the search over the distances 1 to `n`: no distance has a longer run, and the answer is a distance
of its length, if that is not 0. -/
theorem bestOf_longest (tb : Config.TieBreak) (input : Bytes) (pos n : Nat) :
    (∀ d, 1 ≤ d → d ≤ n → matchLen input pos d ≤ (bestOf tb input pos n).1) ∧
      (0 < (bestOf tb input pos n).1 → 1 ≤ (bestOf tb input pos n).2 ∧ (bestOf tb input pos n).2 ≤ n ∧
        matchLen input pos (bestOf tb input pos n).2 = (bestOf tb input pos n).1) := by
  induction n with
  | zero => exact ⟨fun d h1 h0 => by omega, fun h => absurd h (Nat.lt_irrefl 0)⟩
  | succ n ih =>
    obtain ⟨hlongest, hattained⟩ := ih
    have hbounds := replaces_bounds tb (bestOf tb input pos n).1 (matchLen input pos (n + 1))
    simp only [bestOf]
    split at hbounds
    · rename_i hr
      rw [if_pos hr]
      refine ⟨fun d h1 hn => ?_, fun _ => ⟨by omega, Nat.le_refl _, rfl⟩⟩
      rcases Nat.lt_or_eq_of_le hn with hlt | rfl
      · exact Nat.le_trans (hlongest d h1 (by omega)) hbounds
      · exact Nat.le_refl _
    · rename_i hr
      rw [if_neg hr]
      refine ⟨fun d h1 hn => ?_, fun hp => ?_⟩
      · rcases Nat.lt_or_eq_of_le hn with hlt | rfl
        · exact hlongest d h1 (by omega)
        · exact hbounds
      · obtain ⟨h1, hn, hm⟩ := hattained hp
        exact ⟨h1, by omega, hm⟩

/-- With the default tie-break every nearer distance has a shorter run (R225, D14). -/
theorem bestOf_nearest (input : Bytes) (pos n : Nat) :
    ∀ d, 1 ≤ d → d < (bestOf .smallestDistance input pos n).2 →
      matchLen input pos d < (bestOf .smallestDistance input pos n).1 := by
  induction n with
  | zero => exact fun d _ h => absurd h (Nat.not_lt_zero d)
  | succ n ih =>
    intro d h1 hd
    simp only [bestOf] at hd ⊢
    split at hd
    · rename_i hr
      rw [if_pos hr]
      exact Nat.lt_of_le_of_lt ((bestOf_longest _ input pos n).1 d h1 (Nat.le_of_lt_succ hd)) (replaces_smallest.mp hr)
    · rename_i hr
      rw [if_neg hr]
      exact ih d h1 hd

/-! ### The search over the window (R223) -/

theorem candidate_iff {d : Nat} : Candidate pos d ↔ 1 ≤ d ∧ d ≤ min pos Config.lzWindow := by
  rw [Nat.le_min]; rfl

theorem bestMatch_longest (hpos : pos ≤ input.length) {d l : Nat} (hd : Candidate pos d)
    (hrun : RunAt input pos d l) : l ≤ (bestMatch tb input pos).1 := by
  obtain ⟨h1, hn⟩ := candidate_iff.mp hd
  exact Nat.le_trans ((le_matchLen_iff hpos).mpr hrun) ((bestOf_longest tb input pos _).1 d h1 hn)

/-- A best match that is not empty is a run at a distance inside the window. -/
theorem bestMatch_run (hpos : pos ≤ input.length) (h : 0 < (bestMatch tb input pos).1) :
    Candidate pos (bestMatch tb input pos).2 ∧
      RunAt input pos (bestMatch tb input pos).2 (bestMatch tb input pos).1 := by
  obtain ⟨h1, hn, hm⟩ := (bestOf_longest tb input pos _).2 h
  exact ⟨candidate_iff.mpr ⟨h1, hn⟩, (le_matchLen_iff hpos).mp (Nat.le_of_eq hm.symm)⟩

theorem bestMatch_bestRun (hpos : pos ≤ input.length) (h : 0 < (bestMatch .smallestDistance input pos).1) :
    BestRun input pos (bestMatch .smallestDistance input pos).2 (bestMatch .smallestDistance input pos).1 where
  candidate := (bestMatch_run hpos h).1
  run := (bestMatch_run hpos h).2
  longest := fun _ _ hd hrun => bestMatch_longest hpos hd hrun
  nearest := fun d hlt hd hrun =>
    Nat.not_lt_of_le ((le_matchLen_iff hpos).mpr hrun) (bestOf_nearest input pos _ d hd.1 hlt)

/-! ### The token (R226, R227) -/

theorem tokenAt_match (h : 3 ≤ (bestMatch tb input pos).1) :
    tokenAt tb input pos =
      ([Config.lzFlagMatch, BitVec.ofNat 8 ((bestMatch tb input pos).2 / 256),
        BitVec.ofNat 8 (bestMatch tb input pos).2, BitVec.ofNat 8 (bestMatch tb input pos).1],
        (bestMatch tb input pos).1) :=
  if_pos h

theorem tokenAt_lit (h : (bestMatch tb input pos).1 < 3) {v : Byte} (hv : input[pos]? = some v) :
    tokenAt tb input pos = ([Config.lzFlagLit, v], 1) := by
  rw [← slice_one hv]
  exact if_neg (Nat.not_le_of_lt h)

end

end Sys2Proof.Machine
end

section
/-! SUPPORT. The round trip of the window-match codec (R253): each token decodes to the bytes it covers. -/

namespace Sys2Proof.Machine

section
variable {tb : Config.TieBreak} {input : Bytes} {pos d l : Nat}

theorem RunAt.tail (hd : d ≤ pos) (h : RunAt input pos d (l + 1)) : RunAt input (pos + 1) d l := by
  obtain ⟨hl, hroom, hagree⟩ := h
  refine ⟨by omega, by omega, fun j hj => ?_⟩
  have hj' := hagree (j + 1) (by omega)
  rwa [show pos - d + (j + 1) = pos + 1 - d + j by omega, show pos + (j + 1) = pos + 1 + j by omega] at hj'

/-- The copy of a run, from the bytes before it, gives the bytes it matches, also where it overlaps them
(R224, R246). -/
theorem copyList_take (hpos : 1 ≤ d) (hd : d ≤ pos) (h : RunAt input pos d l) :
    copyList d l (input.take pos) = input.take (pos + l) := by
  induction l generalizing pos with
  | zero => rfl
  | succ l ih =>
    have htail := h.tail hd
    obtain ⟨hl, hroom, hagree⟩ := h
    have hlt : pos < input.length := by omega
    have hbyte : (input.take pos)[pos - d]? = some input[pos] := by
      rw [List.getElem?_take_of_lt (by omega)]
      exact (hagree 0 (Nat.succ_pos l)).trans (List.getElem?_eq_getElem hlt)
    have hnext : input.take pos ++ [input[pos]] = input.take (pos + 1) := List.take_concat_get' input pos hlt
    rw [copyList, List.length_take, Nat.min_eq_left (Nat.le_of_lt hlt), slice_one hbyte, hnext,
      ih (by omega) htail, Nat.add_assoc, Nat.add_comm 1]

/-! ### One token -/

theorem lz77DecodeFrom_lit (n : Nat) (v : Byte) (rest out : Bytes) :
    lz77DecodeFrom (n + 1) (Config.lzFlagLit :: v :: rest) out = lz77DecodeFrom n rest (out ++ [v]) := rfl

/-- A `MATCH` whose fields hold `d` and `l` and whose distance is inside the output (R96, R244). -/
theorem lz77DecodeFrom_match (n : Nat) {rest out : Bytes} (hpos : 1 ≤ d) (hd : d ≤ out.length) (hd16 : d < 2 ^ 16)
    (hl : l < 2 ^ 8) :
    lz77DecodeFrom (n + 1)
        (Config.lzFlagMatch :: BitVec.ofNat 8 (d / 256) :: BitVec.ofNat 8 d :: BitVec.ofNat 8 l :: rest) out =
      lz77DecodeFrom n rest (copyList d l out) := by
  have hdist : (BitVec.ofNat 16 (beNat (toBe 2 d))).toNat = d := by
    rw [beNat_toBe, BitVec.toNat_ofNat]; omega
  have hlen : (BitVec.ofNat 8 l).toNat = l := by rw [BitVec.toNat_ofNat]; omega
  have hread : readToken
      (Config.lzFlagMatch :: BitVec.ofNat 8 (d / 256) :: BitVec.ofNat 8 d :: BitVec.ofNat 8 l :: rest) =
        .mtch (BitVec.ofNat 16 (beNat (toBe 2 d))) (BitVec.ofNat 8 l) rest := rfl
  rw [lz77DecodeFrom, if_neg (List.cons_ne_nil _ _), hread]
  simp only [hdist, hlen]
  exact if_neg (by omega)

/-- The decoder, with the bytes before `pos` as its output, takes the token at `pos` to the bytes before the next. -/
theorem lz77DecodeFrom_tokenAt (n : Nat) (hpos : pos < input.length) (rest : Bytes) :
    lz77DecodeFrom (n + 1) ((tokenAt tb input pos).1 ++ rest) (input.take pos) =
      lz77DecodeFrom n rest (input.take (pos + (tokenAt tb input pos).2)) := by
  by_cases hmin : 3 ≤ (bestMatch tb input pos).1
  · obtain ⟨hcand, hrun⟩ := bestMatch_run (Nat.le_of_lt hpos) (Nat.lt_of_lt_of_le (by decide) hmin)
    obtain ⟨h1, hle, hwindow⟩ := hcand
    have hmax := hrun.1
    rw [tokenAt_match hmin, ← copyList_take h1 hle hrun]
    exact lz77DecodeFrom_match n h1 (by rw [List.length_take]; omega) (by omega) (by omega)
  · rw [tokenAt_lit (Nat.lt_of_not_le hmin) (List.getElem?_eq_getElem hpos)]
    exact (lz77DecodeFrom_lit n _ rest _).trans (by rw [List.take_concat_get' input pos hpos])

/-! ### The run of tokens -/

@[simp] theorem lz77DecodeFrom_nil (n : Nat) (out : Bytes) : lz77DecodeFrom n [] out = .ok out := by
  cases n <;> rfl

theorem tokenAt_ne_nil (tb : Config.TieBreak) (input : Bytes) (pos : Nat) : (tokenAt tb input pos).1 ≠ [] := by
  unfold tokenAt
  dsimp only
  split <;> exact List.cons_ne_nil _ _

/-- With the bytes before `pos` decoded, the tokens from `pos` on give all of the input: `n` tokens are enough to
write it and `m` to read them. -/
theorem lz77DecodeFrom_encodeFrom {n m : Nat} (hpos : pos ≤ input.length) (hn : input.length - pos ≤ n)
    (hm : (lz77EncodeFrom tb input n pos).length ≤ m) :
    lz77DecodeFrom m (lz77EncodeFrom tb input n pos) (input.take pos) = .ok input := by
  induction n generalizing m pos with
  | zero => rw [lz77EncodeFrom, lz77DecodeFrom_nil, List.take_of_length_le (by omega)]
  | succ n ih =>
    by_cases hlt : pos < input.length
    · have htoken := List.length_pos_of_ne_nil (tokenAt_ne_nil tb input pos)
      have hadvance := tokenAt_advances tb input pos
      rw [lz77EncodeFrom, if_pos hlt] at hm ⊢
      rw [List.length_append] at hm
      obtain ⟨m, rfl⟩ := Nat.exists_eq_succ_of_ne_zero (n := m) (by omega)
      rw [Nat.succ_eq_add_one, lz77DecodeFrom_tokenAt m hlt]
      exact ih (tokenAt_le tb hlt) (by omega) (by omega)
    · rw [lz77EncodeFrom_end tb (Nat.le_of_not_lt hlt), lz77DecodeFrom_nil,
        List.take_of_length_le (Nat.le_of_not_lt hlt)]

end

/-- Settles O43: the run of tokens from position 0, with no byte decoded. -/
theorem lz77RoundTrip : Obligations.Lz77RoundTrip := fun _ input =>
  lz77DecodeFrom_encodeFrom (pos := 0) (Nat.zero_le _) (Nat.sub_le input.length 0) (Nat.le_refl _)

end Sys2Proof.Machine
end

section
/-! SUPPORT. The tokens of `LZ77_DEC` where `OUT_CAP` has room (R243, R244, R246), and the errors before a token is
executed (R247, R249). -/

namespace Sys2Proof.Machine

section
variable {s : State}

/-! ### `LIT` (R243) -/

theorem execLit_running (hb : s.status = .busy) (hc : s.cmd = cmdLz77Dec) (v : Byte) : execLit v s = litToken v s :=
  if_pos (runs_eq_true.mpr ⟨hb, hc⟩)

theorem litToken_truncated (h : s.inLen < s.ip + 2) (v : Byte) :
    litToken v s = .next (s.raiseError .lzTruncated) := by
  rw [litToken, if_pos h, raise_eq]

theorem litToken_fits {v : Byte} (hroom : s.ip + 2 ≤ s.inLen) (hout : outFits s.params (s.outLen + 1) = true) :
    litToken v s = .next ((s.appended [v]).advance 2) := by
  rw [litToken, if_neg (by omega), emit_eq_next.mpr ⟨hout, rfl⟩, andThen_next]

/-! ### `MATCH` (R244, R246) -/

theorem execMatchTok_running (hb : s.status = .busy) (hc : s.cmd = cmdLz77Dec) (d : BitVec 16) (l : BitVec 8) :
    execMatchTok d l s = matchToken d.toNat l.toNat s :=
  if_pos (runs_eq_true.mpr ⟨hb, hc⟩)

theorem matchToken_truncated (h : s.inLen < s.ip + 4) (d l : Nat) :
    matchToken d l s = .next (s.raiseError .lzTruncated) := by
  rw [matchToken, if_pos h, raise_eq]

theorem outFits_mono {p : Config.Params} {m n : Nat} (h : outFits p n = true) (hle : m ≤ n) : outFits p m = true := by
  unfold outFits at h ⊢
  split at h
  · rfl
  · exact decide_eq_true (Nat.le_trans hle (of_decide_eq_true h))

theorem succ_mod_cases {d : Nat} (hd : 1 ≤ d) (j : Nat) :
    (j % d + 1 = d ∧ (j + 1) % d = 0) ∨ (j % d + 1 < d ∧ (j + 1) % d = j % d + 1) := by
  have hlt : j % d < d := Nat.mod_lt j hd
  rw [← Nat.mod_add_mod]
  by_cases hlast : j % d + 1 = d
  · exact .inl ⟨hlast, by rw [hlast, Nat.mod_self]⟩
  · exact .inr ⟨by omega, Nat.mod_eq_of_lt (by omega)⟩

/-- The copy appends the last `d` bytes of the output over and over (R246): after its first byte, what is left of it is
the same copy one address further on. -/
theorem copyBytes_cyclic {d n : Nat} (ho : outputWritten s) (hpos : 1 ≤ d) (hle : d ≤ s.outLen)
    (hfits : outFits s.params (s.outLen + n) = true) :
    ∃ bs : Bytes, bs.length = n ∧ copyBytes d n s = .next (s.appended bs) ∧
      ∀ j, j < n → bs[j]? = s.out.read (s.outLen - d + j % d) := by
  induction n generalizing s with
  | zero => exact ⟨[], rfl, rfl, fun j hj => absurd hj (Nat.not_lt_zero j)⟩
  | succ n ih =>
    have hread : (s.out.read (s.outLen - d)).isSome = true := by
      simpa using Memory.readBytes_isSome.mp ho (s.outLen - d) (by omega)
    obtain ⟨b, hb⟩ := Option.isSome_iff_exists.mp hread
    have hemit : emit [b] s = .next (s.appended [b]) := emit_eq_next.mpr ⟨outFits_mono hfits (by simp), rfl⟩
    have happ : Appends s (s.appended [b]) := ⟨[b], rfl, rfl⟩
    have hlen : (s.appended [b]).outLen = s.outLen + 1 := rfl
    obtain ⟨bs, hbs, hcopy, hcyclic⟩ := ih (s := s.appended [b]) (happ.outputWritten ho) (Nat.le_succ_of_le hle)
      (by rw [hlen, Nat.add_assoc, Nat.add_comm 1]; exact hfits)
    refine ⟨b :: bs, by rw [List.length_cons, hbs], ?_, fun j hj => ?_⟩
    · simp only [copyBytes, hb, hemit, andThen_next, hcopy, State.appended_appended, List.singleton_append]
    · cases j with
      | zero => rw [Nat.zero_mod, Nat.add_zero, hb]; rfl
      | succ j =>
        rw [List.getElem?_cons_succ, hcyclic j (by omega), hlen]
        rcases succ_mod_cases hpos j with ⟨hlast, hmod⟩ | ⟨hinner, hmod⟩
        · rw [hmod, show s.outLen + 1 - d + j % d = s.outLen by omega, stores_appended, if_pos (by simp),
            Nat.sub_self, Nat.add_zero, hb]
          rfl
        · rw [hmod, read_out_appended s [b] (.inl (by omega)),
            show s.outLen + 1 - d + j % d = s.outLen - d + (j % d + 1) by omega]

/-! ### Errors before a token (R247, R249) -/

theorem decode_tokens_eq_badFlag {bs : Bytes} : decode .tokens bs = .reject .badFlag ↔ readToken bs = .badFlag := by
  cases h : readToken bs <;> simp [decode, decodeToken, h]

theorem decode_tokens_eq_truncated {bs : Bytes} :
    decode .tokens bs = .reject .truncated ↔ readToken bs = .truncated := by
  cases h : readToken bs <;> simp [decode, decodeToken, h]

theorem drop_ip_eq_cons {input : Bytes} {flag : Byte} (hi : s.inputBytes = some input) (hip : s.ip < s.inLen)
    (hflag : s.inp.read s.ip = some flag) :
    ∃ rest, input.drop s.ip = flag :: rest ∧ rest.length = s.inLen - s.ip - 1 := by
  have hlt : s.ip < input.length := by rw [inputBytes_length hi]; exact hip
  have hbyte : input[s.ip] = flag := by
    rw [read_inp_eq hi hip, List.getElem?_eq_getElem hlt] at hflag
    exact Option.some.inj hflag
  refine ⟨input.drop (s.ip + 1), by rw [List.drop_eq_getElem_cons hlt, hbyte], ?_⟩
  rw [List.length_drop, inputBytes_length hi, Nat.sub_sub]

end

end Sys2Proof.Machine

namespace Sys2Proof.WindowCodec

open Machine

/-- Settles O37: the append of one byte, or the check before it. -/
theorem litToken : Obligations.LitToken := by
  intro v s hb hc
  rw [exec_lit, execLit_running hb hc]
  exact ⟨fun hroom hout => ⟨_, litToken_fits hroom hout, rfl, stores_appended s [v]⟩,
    fun hshort => litToken_truncated hshort v⟩

/-- Settles O38: the cyclic copy (`copyBytes_cyclic`), or one of the two checks before it. -/
theorem matchToken : Obligations.MatchToken := by
  intro d l s hb hc
  rw [exec_matchTok, execMatchTok_running hb hc]
  refine ⟨fun hroom hpos hle hread hfits => ?_, fun hshort => matchToken_truncated hshort _ _,
    fun hroom hd => matchToken_badDistance hroom hd⟩
  have ho : outputWritten s := Memory.readBytes_isSome.mpr fun a ha => by rw [Nat.zero_add]; exact hread a ha
  obtain ⟨bs, hlen, hcopy, hcyclic⟩ := copyBytes_cyclic ho hpos hle hfits
  refine ⟨(s.appended bs).advance 4, ?_, ?_, fun j hj => ?_, fun a ha => ?_⟩
  · rw [matchToken_copy hroom (by omega), hcopy, andThen_next]
  · rw [← hlen]
    rfl
  · rw [← hcyclic j hj, State.advance_out, stores_appended, if_pos (by omega), Nat.add_sub_cancel_left]
  · exact read_out_appended s bs (by rw [hlen]; exact ha)

end Sys2Proof.WindowCodec

namespace Sys2Proof.Machine

/-- Settles O40: the token at the cursor is rejected as O6 says (`tokenRejects`). -/
theorem lz77DecFetchErrors : Obligations.Lz77DecFetchErrors := by
  intro flag s hb hc hip hwritten hflag
  obtain ⟨input, hi⟩ := Option.isSome_iff_exists.mp hwritten
  obtain ⟨rest, hdrop, hrest⟩ := drop_ip_eq_cons hi hip hflag
  obtain ⟨hbad, hcut⟩ := tokenRejects flag rest
  rw [step_lz77Dec hb hc hi, lz77DecStep_token hi hip, hdrop]
  have htruncated (h : flag.toNat = 0 ∧ rest.length < 1 ∨ flag.toNat = 1 ∧ rest.length < 3) :
      runToken (readToken (flag :: rest)) s = .next (inError s .corruption .lzTruncated) := by
    rw [decode_tokens_eq_truncated.mp (hcut.mpr h)]
    rfl
  refine ⟨fun h => ?_, fun h hshort => htruncated (.inl ⟨h, by omega⟩),
    fun h hshort => htruncated (.inr ⟨h, by omega⟩)⟩
  rw [decode_tokens_eq_badFlag.mp (hbad.mpr h)]
  rfl

end Sys2Proof.Machine
end

section
/-! SUPPORT. One micro-step of `LZ77_ENC` (R222 to R227). -/

namespace Sys2Proof.Machine

theorem ofNat_mod_256 (n : Nat) : BitVec.ofNat 8 (n % 256) = BitVec.ofNat 8 n :=
  BitVec.eq_of_toNat_eq (Nat.mod_mod n (2 ^ 8))

/-- Settles O39: the token of the best match, or of the byte where the best match is too short. -/
theorem lz77EncMicroStep : Obligations.Lz77EncMicroStep := by
  intro input s hb hc hip hi htie hcap
  have hlt : s.ip < input.length := by rw [inputBytes_length hi]; exact hip
  have hpos := Nat.le_of_lt hlt
  have hstep : exec .lz77Enc s = _ := (command_busy hb hc).trans (lz77EncStep_token hcap hi hip)
  rw [htie] at hstep
  refine ⟨_, hstep, ?_⟩
  by_cases hmin : 3 ≤ (bestMatch .smallestDistance input s.ip).1
  · refine .inl ⟨_, _, bestMatch_bestRun hpos (by omega), hmin, ?_⟩
    rw [tokenAt_match hmin, ofNat_mod_256]
    exact ⟨rfl, stores_appended s _⟩
  · refine .inr ⟨fun d l hd hrun => ?_, input[s.ip], List.getElem?_eq_getElem hlt, ?_⟩
    · have hle := bestMatch_longest (tb := .smallestDistance) hpos hd hrun
      omega
    · rw [tokenAt_lit (Nat.lt_of_not_le hmin) (List.getElem?_eq_getElem hlt)]
      exact ⟨rfl, stores_appended s _⟩

end Sys2Proof.Machine
end

section
/-! SUPPORT. A codec that the host layer starts: the start is well-formed or refused for the length of its input, and
an operation that has ended leaves no start pending, so that the host layer acts next (log 2, log 16). -/

namespace Sys2Proof.Machine

/-! ### Runs -/

theorem runSteps_add (m n : Nat) (s : State) : runSteps (m + n) s = andThen (runSteps m s) (runSteps n) := by
  induction m generalizing s with
  | zero => rw [Nat.zero_add, runSteps_zero, andThen_next]
  | succ m ih =>
    rw [Nat.add_right_comm, runSteps, runSteps]
    cases step s with
    | next t => exact ih t
    | fault r => rfl
    | refused r => rfl

/-- What every step keeps holds along a run. -/
theorem runSteps_keeps {P : State → Prop} (hP : ∀ s t, P s → step s = .next t → P t) {k : Nat} {s t : State}
    (hs : P s) (h : runSteps k s = .next t) : P t := by
  induction k generalizing s with
  | zero => exact Host.Outcome.next.inj h ▸ hs
  | succ k ih =>
    obtain ⟨u, hu, h⟩ := andThen_eq_next.mp h
    exact ih (hP s u hs hu) h

section
variable {s t : State} {c : BitVec 3} {input : Bytes}

/-! ### Pending starts -/

theorem startSound_busy (hs : startSound s) (hb : s.status = .busy) : s.start = false := by
  rw [Bool.eq_false_iff]
  exact fun e => by simpa [hb] using hs.mp e

theorem Transition.startSound (h : Transition s t) (hs : startSound s) : startSound t := by
  cases h with
  | works hb hw =>
    exact startSound_of_no_start (hw.controlSame.start.trans (startSound_busy hs hb)) (by simp [hw.status_eq, hb])
  | ends hb he =>
    exact startSound_of_no_start (he.controlSame.start.trans (startSound_busy hs hb)) (by simp [he.status_eq])
  | raises _ hb =>
    have hstart : s.start = false := startSound_busy hs hb
    exact startSound_of_no_start hstart nofun
  | starts | startFails => exact startSound_of_no_start rfl nofun
  | callOver => exact hs
  | saveStarts | loadStarts => exact ⟨fun _ => rfl, fun _ => rfl⟩

/-- After an operation that has ended no start is pending. -/
theorem start_of_run {k : Nat} (hs : startSound s) (h : runSteps k s = .next t) (hne : t.status ≠ .starting) :
    t.start = false := by
  have ht : startSound t := runSteps_keeps (P := startSound) (fun _ _ hs h => (transition_of_step h).startSound hs) hs h
  rw [Bool.eq_false_iff]
  exact fun e => hne (ht.mp e)

/-! ### The started codec -/

/-- What the host layer loads is the input of the codec it starts (R345). -/
theorem codecStarted_inputBytes (s : State) (c : BitVec 3) (input : Bytes) :
    (s.codecStarted c input).inputBytes = some input :=
  Memory.readBytes_writeBytes s.inp 0 input

theorem codecStarted_read (s : State) (c : BitVec 3) (input : Bytes) (a : Nat) :
    (s.codecStarted c input).inp.read a = if a < input.length then input[a]? else s.inp.read a := by
  simp [Memory.read_writeBytes]

theorem ready_codecStarted (hlen : input.length ≤ s.params.maxInputLen) (hov : s.overlap = false) {side : BitVec 8}
    {written : Bool} {cmpt : Cmpt} (hside : c = cmdLzwDec → written = true) :
    Ready c input { s.codecStarted c input with side := side, sideWritten := written, cmpt := cmpt } :=
  ⟨nofun, rfl, rfl, hlen, hov, codecStarted_inputBytes s c input, hside⟩

/-- An input above `MAX_INPUT_LEN` is refused at the launch of each operation (R25, R342). -/
theorem step_inputTooLong (hb : s.status ≠ .busy) (hs : s.start = true) (hc : plainCommand s.cmd ∨ s.cmd = cmdLzwDec)
    (hlen : s.params.maxInputLen < s.inLen) : step s = .refused .inputTooLong := by
  have hlaunch (c : BitVec 3) : launch c s = .refused .inputTooLong := by simp [launch, launchRefusal, hlen]
  rw [step_start hb hs]
  rcases hc with hc | hc
  · rw [exec_plain_not_busy hc hb, hlaunch]
  · rw [hc]
    show exec .lzwDec s = _
    rw [exec_lzwDec_not_busy hb, hlaunch, andThen_refused]

end

end Sys2Proof.Machine
end

section
/-! SUPPORT. `CMPT_LOAD` step by step: the header and its checks (R281 to R283), the codec's run, and the end (R283,
R284, R317). -/

namespace Sys2Proof.Machine

/-! ### The header and its checks -/

theorem toNat_eq_cmptVersion {x : Byte} : x.toNat = Config.cmptVersion ↔ x = 1 := BitVec.toNat_inj (y := 1)

theorem toNat_eq_algDict {x : Byte} : x.toNat = Config.algDict ↔ x = 1 := BitVec.toNat_inj (y := 1)

theorem toNat_eq_algWindow {x : Byte} : x.toNat = Config.algWindow ↔ x = 2 := BitVec.toNat_inj (y := 2)

/-- The first check of a header that fails, in the order of R283, for a file of `fileLen` bytes. -/
def headerCause (h : CmptFields) (fileLen : Nat) : Option ErrCause :=
  if h.version.toNat ≠ Config.cmptVersion then some .cmptBadVersion
  else if h.algorithmId.toNat ≠ Config.algDict ∧ h.algorithmId.toNat ≠ Config.algWindow then some .cmptBadAlgorithm
  else if fileLen < Config.cmptHdrLen + h.payloadLength.toNat then some .cmptTruncated
  else none

section
variable {h : CmptFields} {fileLen : Nat}

theorem headerCause_badVersion (hv : h.version ≠ 1) : headerCause h fileLen = some .cmptBadVersion :=
  if_pos (mt toNat_eq_cmptVersion.mp hv)

theorem headerCause_badAlgorithm (hv : h.version = 1) (h1 : h.algorithmId ≠ 1) (h2 : h.algorithmId ≠ 2) :
    headerCause h fileLen = some .cmptBadAlgorithm := by
  have hver := toNat_eq_cmptVersion.mpr hv
  have hdict := mt toNat_eq_algDict.mp h1
  have hwindow := mt toNat_eq_algWindow.mp h2
  simp only [headerCause, hver, hdict, hwindow, ne_eq, not_true, not_false_iff, and_self, if_true, if_false]

/-- With a known version and algorithm only the length is left to check. -/
theorem headerCause_known (hv : h.version = 1) (ha : h.algorithmId = 1 ∨ h.algorithmId = 2) :
    headerCause h fileLen = if fileLen < 20 + h.payloadLength.toNat then some .cmptTruncated else none := by
  have hver := toNat_eq_cmptVersion.mpr hv
  have halg : h.algorithmId.toNat = Config.algDict ∨ h.algorithmId.toNat = Config.algWindow :=
    ha.imp toNat_eq_algDict.mpr toNat_eq_algWindow.mpr
  rw [headerCause, if_neg (not_not_intro hver), if_neg (by tauto)]
  rfl

theorem headerCause_eq_none :
    headerCause h fileLen = none ↔
      h.version = 1 ∧ (h.algorithmId = 1 ∨ h.algorithmId = 2) ∧ 20 + h.payloadLength.toNat ≤ fileLen := by
  by_cases hv : h.version = 1
  · by_cases ha : h.algorithmId = 1 ∨ h.algorithmId = 2
    · rw [headerCause_known hv ha]
      split_ifs with hl
      · exact ⟨nofun, fun e => absurd e.2.2 (Nat.not_le_of_lt hl)⟩
      · exact ⟨fun _ => ⟨hv, ha, Nat.le_of_not_lt hl⟩, fun _ => rfl⟩
    · rw [headerCause_badAlgorithm hv (fun e => ha (.inl e)) (fun e => ha (.inr e))]
      exact ⟨nofun, fun e => absurd e.2.1 ha⟩
  · rw [headerCause_badVersion hv]
    exact ⟨nofun, fun e => absurd e.1 hv⟩

end

/-- The state in which `CMPT_LOAD` has read the header `h` and started its codec on the payload (R283). -/
def State.loadStarted (s : State) (h : CmptFields) : State :=
  { s.codecStarted (if h.algorithmId = 1 then cmdLzwDec else cmdLz77Dec)
      (slice s.cmpt.file Config.cmptHdrLen h.payloadLength.toNat) with
    side := if h.algorithmId = 1 then h.sideInfo else s.side
    sideWritten := if h.algorithmId = 1 then true else s.sideWritten
    cmpt := loadArgs h s.cmpt }

section
variable {s : State} {h : CmptFields}

theorem loadFromHeader_fails {c : ErrCause} (hc : headerCause h s.cmpt.file.length = some c) :
    loadFromHeader h s = failCall c s := by
  unfold headerCause at hc
  unfold loadFromHeader
  split_ifs at hc with hv ha hl
  · rw [if_pos hv, ← Option.some.inj hc]
  · rw [if_neg hv, if_pos ha, ← Option.some.inj hc]
  · rw [if_neg hv, if_neg ha, if_pos hl, ← Option.some.inj hc]

theorem loadFromHeader_starts (hc : headerCause h s.cmpt.file.length = none) :
    loadFromHeader h s = .next (s.loadStarted h) := by
  unfold headerCause at hc
  unfold loadFromHeader
  split_ifs at hc with hv ha hl
  rw [if_neg hv, if_neg ha, if_neg hl]
  by_cases hdict : h.algorithmId = 1
  · simp only [State.loadStarted, if_pos hdict, if_pos (toNat_eq_algDict.mpr hdict)]
  · simp only [State.loadStarted, if_neg hdict, if_neg (mt toNat_eq_algDict.mp hdict)]
    rfl

theorem payload_length {file : Bytes} {n : Nat} (hl : 20 + n ≤ file.length) :
    (slice file Config.cmptHdrLen n).length = n := by
  rw [slice_length]
  exact Nat.min_eq_left (Nat.le_sub_of_add_le' hl)

theorem loadStarted_read (hl : 20 + h.payloadLength.toNat ≤ s.cmpt.file.length) (a : Nat) :
    (s.loadStarted h).inp.read a =
      if a < h.payloadLength.toNat then s.cmpt.file[20 + a]? else s.inp.read a := by
  have hread := codecStarted_read s cmdLzwDec (slice s.cmpt.file Config.cmptHdrLen h.payloadLength.toNat) a
  rw [payload_length hl] at hread
  refine hread.trans (ite_congr rfl (fun ha => ?_) fun _ => rfl)
  rw [slice, List.getElem?_take_of_lt ha, List.getElem?_drop]
  rfl

theorem exec_cmptHdr_load (hb : s.status ≠ .busy) (hs : s.start = false) (hp : s.cmpt.phase = .loadHeader) :
    exec (.cmptHdr h) s = loadFromHeader h s :=
  (execCmptHdr_host hb hs).1 hp

end

/-- Settles O45: the three failing checks in their order, and the start of the codec. -/
theorem cmptHdrLoads : Obligations.CmptHdrLoads := by
  intro h s hb hs hp
  rw [exec_cmptHdr_load hb hs hp]
  refine ⟨fun hv => ?version, fun hv h1 h2 => ?algorithm, fun hv ha hl => ?length, fun hv ha hl => ?starts⟩
  case version => exact loadFromHeader_fails (headerCause_badVersion hv)
  case algorithm => exact loadFromHeader_fails (headerCause_badAlgorithm hv h1 h2)
  case length => exact loadFromHeader_fails ((headerCause_known hv ha).trans (if_pos hl))
  case starts =>
    have hlen := payload_length hl
    refine ⟨_, loadFromHeader_starts (headerCause_eq_none.mpr ⟨hv, ha, hl⟩), ?_, fun a => loadStarted_read hl a⟩
    simp only [State.loadStarted, State.codecStarted, State.starting, hlen, loadArgs]

/-! ### The end -/

section
variable {s : State}

theorem step_loadCodec (hb : s.status ≠ .busy) (hs : s.start = false) (hp : s.cmpt.phase = .loadCodec) :
    step s = loadFinish s := by
  rw [step_host hb hs, fetchHostLayer, hp]
  rfl

theorem loadFinish_error (h : s.status = .error) : loadFinish s = .next (s.callFailed s.errKind s.errCause) := by
  rw [loadFinish, h]

theorem loadFinish_match {pixels : Bytes} (h : s.status = .done) (ho : s.outputBytes = some pixels)
    (hlen : pixels.length = expectedLength s.cmpt.width s.cmpt.height s.cmpt.bpp) :
    loadFinish s = .next { s with cmpt := { s.cmpt with
      phase := .idle, result := .loaded s.cmpt.width s.cmpt.height s.cmpt.bpp pixels } } := by
  simp only [loadFinish, h, ho, if_pos hlen]

theorem loadFinish_mismatch {pixels : Bytes} (h : s.status = .done) (ho : s.outputBytes = some pixels)
    (hlen : pixels.length ≠ expectedLength s.cmpt.width s.cmpt.height s.cmpt.bpp) :
    loadFinish s = failCall .cmptLengthMismatch s := by
  simp only [loadFinish, h, ho, if_neg hlen]

end

/-- Settles O48: the end of the call by `STATUS` and, at `DONE`, by the decoded length. -/
theorem cmptLoadEnds : Obligations.CmptLoadEnds := by
  intro s hs hp
  refine ⟨fun he => ?_, fun pixels hd ho => ?_⟩
  · rw [step_loadCodec (by simp [he]) hs hp, loadFinish_error he]
    rfl
  · rw [step_loadCodec (by simp [hd]) hs hp]
    exact ⟨fun h => loadFinish_match hd ho h, fun h => loadFinish_mismatch hd ho h⟩

end Sys2Proof.Machine
end

section
/-! SUPPORT. `CMPT_LOAD` from its call to its return (R285): the header, the codec's run, and the end. -/

namespace Sys2Proof.Machine

/-! ### The function of R285 after its checks -/

/-- What the codec of `CMPT_LOAD` makes of the payload (R283). -/
def decodePayload (p : Config.Params) (h : CmptFields) (payload : Bytes) : OpResult Bytes :=
  if h.algorithmId = 1 then lzwDecodeBytes p.widthPolicy h.sideInfo.toNat payload else lz77DecodeBytes payload

/-- What `CMPT_LOAD` answers on the result of its codec (R283, R317). -/
def loadResult (h : CmptFields) : OpResult Bytes → OpResult (Nat × Nat × Nat × Bytes)
  | .ok pixels =>
    if pixels.length = expectedLength h.width.toNat h.height.toNat h.bitsPerPixel.toNat then
      .ok (h.width.toNat, h.height.toNat, h.bitsPerPixel.toNat, pixels)
    else .error .cmptLengthMismatch
  | .error c => .error c
  | .refused r => .refused r

section
variable {p : Config.Params} {file : Bytes}

theorem cmptLoadBytes_fails {c : ErrCause} (hmagic : file.take 4 = Config.cmptMagic) (hlen : 20 ≤ file.length)
    (hc : headerCause (cmptFields file) file.length = some c) : cmptLoadBytes p file = .error c := by
  have hlong : ¬ file.length < Config.cmptHdrLen := Nat.not_lt.mpr hlen
  unfold headerCause at hc
  rw [cmptLoadBytes, if_neg (not_not_intro hmagic), if_neg hlong]
  split_ifs at hc with hv ha hl
  · simp only [if_pos hv, Option.some.inj hc]
  · simp only [if_neg hv, if_pos ha, Option.some.inj hc]
  · simp only [if_neg hv, if_neg ha, if_pos hl, Option.some.inj hc]

theorem cmptLoadBytes_passes (hmagic : file.take 4 = Config.cmptMagic) (hlen : 20 ≤ file.length)
    (hc : headerCause (cmptFields file) file.length = none) :
    cmptLoadBytes p file =
      if p.maxInputLen < (cmptFields file).payloadLength.toNat then .refused .inputTooLong
      else loadResult (cmptFields file)
        (decodePayload p (cmptFields file) (slice file Config.cmptHdrLen (cmptFields file).payloadLength.toNat)) := by
  have hlong : ¬ file.length < Config.cmptHdrLen := Nat.not_lt.mpr hlen
  unfold headerCause at hc
  rw [cmptLoadBytes, if_neg (not_not_intro hmagic), if_neg hlong]
  split_ifs at hc with hv ha hl
  simp only [if_neg hv, if_neg ha, if_neg hl, decodePayload, toNat_eq_algDict]
  refine ite_congr rfl (fun _ => rfl) fun _ => ?_
  generalize (if (cmptFields file).algorithmId = 1 then _ else _ : OpResult Bytes) = decoded
  cases decoded <;> rfl

end

/-! ### The steps of the host layer before the codec -/

section
variable {s : State}

theorem step_badMagic (hb : s.status ≠ .busy) (hs : s.start = false) (hp : s.cmpt.phase = .loadHeader)
    (h : s.cmpt.file.take 4 ≠ Config.cmptMagic) : step s = failCall .cmptBadMagic s := by
  simp only [step_host hb hs, fetchHostLayer, hp, decodeCmpt, if_neg h, runFetched_act]

theorem step_shortHeader (hb : s.status ≠ .busy) (hs : s.start = false) (hp : s.cmpt.phase = .loadHeader)
    (hmagic : s.cmpt.file.take 4 = Config.cmptMagic) (h : s.cmpt.file.length < 20) :
    step s = failCall .cmptTruncated s := by
  have hlen : s.cmpt.file.length < Config.cmptHdrLen := h
  simp only [step_host hb hs, fetchHostLayer, hp, decodeCmpt, if_pos hmagic, if_pos hlen, runFetched_act]

theorem step_header (hb : s.status ≠ .busy) (hs : s.start = false) (hp : s.cmpt.phase = .loadHeader)
    (hmagic : s.cmpt.file.take 4 = Config.cmptMagic) (hlen : 20 ≤ s.cmpt.file.length) :
    step s = loadFromHeader (cmptFields s.cmpt.file) s := by
  rw [step_loadHeader hb hs hp (decodeCmpt_eq_unit.mpr ⟨hlen, hmagic, rfl, rfl⟩), exec_cmptHdr_load hb hs hp]

/-! ### The codec's run -/

theorem loadStarted_inputTooLong {h : CmptFields} (hl : 20 + h.payloadLength.toNat ≤ s.cmpt.file.length)
    (hmax : s.params.maxInputLen < h.payloadLength.toNat) : step (s.loadStarted h) = .refused .inputTooLong := by
  have hcmd : plainCommand (s.loadStarted h).cmd ∨ (s.loadStarted h).cmd = cmdLzwDec := by
    by_cases halg : h.algorithmId = 1
    · exact .inr (if_pos halg)
    · exact .inl (.inr (.inr (.inr (if_neg halg))))
  have hlen : (s.loadStarted h).inLen = h.payloadLength.toNat := payload_length hl
  exact step_inputTooLong nofun rfl hcmd (hlen ▸ hmax)

/-- The codec that `CMPT_LOAD` has started runs as its function, for both algorithms. -/
theorem loadStarted_runs {h : CmptFields} (hov : s.overlap = false) (hu : unbounded s)
    (hl : 20 + h.payloadLength.toNat ≤ s.cmpt.file.length) (hmax : h.payloadLength.toNat ≤ s.params.maxInputLen) :
    ∃ k, k ≤ h.payloadLength.toNat + 2 ∧ DecoderEnds (s.loadStarted h) (runSteps k (s.loadStarted h))
      (decodePayload s.params h (slice s.cmpt.file Config.cmptHdrLen h.payloadLength.toNat)) := by
  have hlen := payload_length hl
  have hready (c : BitVec 3) {side : BitVec 8} {written : Bool} (hside : c = cmdLzwDec → written = true) :=
    ready_codecStarted (c := c) (side := side) (cmpt := loadArgs h s.cmpt) (hlen.trans_le hmax) hov hside
  by_cases halg : h.algorithmId = 1
  · simp only [State.loadStarted, decodePayload, if_pos halg]
    obtain ⟨k, hk, hrun⟩ := lzwDec_runs (hready cmdLzwDec (side := h.sideInfo) fun _ => rfl) hu
    exact ⟨k, hlen ▸ hk, hrun⟩
  · simp only [State.loadStarted, decodePayload, if_neg halg]
    obtain ⟨k, hk, hrun⟩ := lz77DecRunsAsTransaction _ _ (hready cmdLz77Dec (side := s.side) (written := s.sideWritten)
      (fun e => absurd e (by decide))) hu
    refine ⟨k, hlen ▸ hk, ?_⟩
    cases hres : lz77DecodeBytes (slice s.cmpt.file Config.cmptHdrLen h.payloadLength.toNat) with
    | ok out => rw [hres] at hrun; exact hrun
    | error c => rw [hres] at hrun; exact hrun
    | refused r => rw [hres] at hrun; exact hrun.elim

end

/-! ### The return -/

/-- The outcome `o` of `CMPT_LOAD`, called at `s`, is the result `r` (R280, R286). -/
def LoadReturns (s : State) (o : Outcome) : OpResult (Nat × Nat × Nat × Bytes) → Prop
  | .ok (w, h, b, pixels) => ∃ t, o = .next t ∧ t.cmpt.phase = .idle ∧ t.cmpt.result = .loaded w h b pixels ∧
      t.params = s.params ∧ recordsSame s t ∧ t.draws = s.draws
  | .error c => ∃ t, o = .next t ∧ t.cmpt.phase = .idle ∧ t.cmpt.result = .failed c.kind c ∧
      t.params = s.params ∧ recordsSame s t ∧ t.draws = s.draws
  | .refused r => o = .refused r

section
variable {s : State}

theorem loadReturns_failCall (c : ErrCause) : LoadReturns s (failCall c s) (.error c) :=
  ⟨_, rfl, rfl, rfl, rfl, ⟨rfl, rfl, rfl⟩, rfl⟩

/-- The end of the call after the codec's run (R283, R317). -/
theorem LoadReturns.of_decoderEnds {h : CmptFields} {k : Nat} {r : OpResult Bytes}
    (hends : DecoderEnds (s.loadStarted h) (runSteps k (s.loadStarted h)) r) :
    LoadReturns s (runSteps (k + 1) (s.loadStarted h)) (loadResult h r) := by
  have hstarts : startSound (s.loadStarted h) := ⟨fun _ => rfl, fun _ => rfl⟩
  rw [runSteps_add]
  cases r with
  | ok pixels =>
    obtain ⟨t, hrun, ⟨hdone, -, -, -, hout, hparams, -, -, -, hcmpt, hdraws⟩, -, hrecords⟩ := hends
    have hargs : t.cmpt = loadArgs h s.cmpt := hcmpt
    have hstart : t.start = false := start_of_run hstarts hrun (by simp [hdone])
    rw [hrun, andThen_next, runSteps_one, step_loadCodec (by simp [hdone]) hstart (by rw [hargs]; rfl)]
    by_cases hlen : pixels.length = expectedLength h.width.toNat h.height.toNat h.bitsPerPixel.toNat
    · rw [loadFinish_match hdone hout (by rw [hargs]; exact hlen), hargs, loadResult, if_pos hlen]
      exact ⟨_, rfl, rfl, rfl, hparams, hrecords, hdraws⟩
    · rw [loadFinish_mismatch hdone hout (by rw [hargs]; exact hlen), loadResult, if_neg hlen]
      exact ⟨_, rfl, rfl, rfl, hparams, hrecords, hdraws⟩
  | error c =>
    obtain ⟨t, hrun, herror, hkind, hcause, -, -, hrecords, hparams, -, -, -, hcmpt, hdraws⟩ := hends
    have hstart : t.start = false := start_of_run hstarts hrun (by simp [herror])
    rw [hrun, andThen_next, runSteps_one, step_loadCodec (by simp [herror]) hstart (by rw [hcmpt]; rfl),
      loadFinish_error herror, hkind, hcause]
    exact ⟨_, rfl, rfl, rfl, hparams, hrecords, hdraws⟩
  | refused r =>
    rw [hends]
    exact rfl

/-- A call of `CMPT_LOAD` in its order: the magic, the length of the header, its checks, the launch, the codec. -/
theorem cmptLoad_runs (hb : s.status ≠ .busy) (hs : s.start = false) (hp : s.cmpt.phase = .loadHeader)
    (hov : s.overlap = false) (hu : unbounded s) :
    ∃ k, k ≤ s.cmpt.file.length + 4 ∧ LoadReturns s (runSteps k s) (cmptLoadBytes s.params s.cmpt.file) := by
  have hfails {c : ErrCause} (hstep : step s = failCall c s) (hres : cmptLoadBytes s.params s.cmpt.file = .error c) :
      ∃ k, k ≤ s.cmpt.file.length + 4 ∧ LoadReturns s (runSteps k s) (cmptLoadBytes s.params s.cmpt.file) :=
    ⟨1, by omega, by rw [runSteps_one, hstep, hres]; exact loadReturns_failCall c⟩
  by_cases hmagic : s.cmpt.file.take 4 = Config.cmptMagic
  swap
  · exact hfails (step_badMagic hb hs hp hmagic) (if_pos hmagic)
  by_cases hshort : s.cmpt.file.length < 20
  · exact hfails (step_shortHeader hb hs hp hmagic hshort)
      ((if_neg (not_not_intro hmagic)).trans (if_pos hshort))
  have hlen : 20 ≤ s.cmpt.file.length := by omega
  have hheader := step_header hb hs hp hmagic hlen
  cases hc : headerCause (cmptFields s.cmpt.file) s.cmpt.file.length with
  | some c => exact hfails (hheader.trans (loadFromHeader_fails hc)) (cmptLoadBytes_fails hmagic hlen hc)
  | none =>
    obtain ⟨-, -, hl⟩ := headerCause_eq_none.mp hc
    have hstep := hheader.trans (loadFromHeader_starts hc)
    rw [cmptLoadBytes_passes hmagic hlen hc]
    split_ifs with hmax
    · refine ⟨2, by omega, ?_⟩
      rw [runSteps_succ hstep, runSteps_one, loadStarted_inputTooLong hl hmax]
      exact rfl
    · obtain ⟨k, hk, hends⟩ := loadStarted_runs hov hu hl (Nat.not_lt.mp hmax)
      exact ⟨k + 2, by omega, by rw [runSteps_succ hstep]; exact LoadReturns.of_decoderEnds hends⟩

end

/-- Settles O49: the call's own steps (`cmptLoad_runs`) around the run of the codec it starts. -/
theorem cmptLoadRunsAsTransaction : Obligations.CmptLoadRunsAsTransaction :=
  fun _ hb hs hp hov hu => cmptLoad_runs hb hs hp hov hu

end Sys2Proof.Machine
end

section
/-! SUPPORT. `CMPT_SAVE` (R279): its arguments (R273 to R275), the codec's run, and the file it writes (R272, R276). -/

namespace Sys2Proof.Machine

/-! ### The arguments -/

/-- The arguments of `CMPT_SAVE` fit the fields of the header (R273, R274). -/
def SaveFits (width height bpp alg : Nat) : Prop :=
  (alg = Config.algDict ∨ alg = Config.algWindow) ∧ width < 2 ^ 32 ∧ height < 2 ^ 32 ∧ bpp ≤ 255

/-- The state in which `CMPT_SAVE` has started its codec on the pixels (R273). -/
def State.saveStarted (s : State) : State :=
  { s.codecStarted (if s.cmpt.alg = Config.algDict then cmdLzwEnc else cmdLz77Enc) s.cmpt.pixels with
    cmpt := { s.cmpt with phase := .saveCodec } }

theorem saveStarted_read (s : State) (a : Nat) :
    s.saveStarted.inp.read a = if a < s.cmpt.pixels.length then s.cmpt.pixels[a]? else s.inp.read a :=
  codecStarted_read s cmdLzwEnc s.cmpt.pixels a

section
variable {s : State}

theorem step_saveStart (hb : s.status ≠ .busy) (hs : s.start = false) (hp : s.cmpt.phase = .saveStart) :
    step s = saveStart s := by
  rw [step_host hb hs, fetchHostLayer, hp]
  rfl

theorem saveStart_fits (h : SaveFits s.cmpt.width s.cmpt.height s.cmpt.bpp s.cmpt.alg) :
    saveStart s = .next s.saveStarted :=
  if_pos h

theorem saveStart_refused (h : ¬ SaveFits s.cmpt.width s.cmpt.height s.cmpt.bpp s.cmpt.alg) :
    saveStart s = .refused .saveArgument :=
  if_neg h

end

/-- Settles O47: the start of the call, by whether the arguments fit. -/
theorem cmptSaveStarts : Obligations.CmptSaveStarts := by
  intro s hb hs hp
  rw [step_saveStart hb hs hp]
  exact ⟨fun h => ⟨_, saveStart_fits h, rfl, saveStarted_read s⟩, saveStart_refused⟩

/-! ### The file -/

/-- The header of the arguments, of `SIDE` and of a payload of `len` bytes (R272). -/
def savedFields (width height bpp alg : Nat) (side : BitVec 8) (len : Nat) : CmptFields :=
  { version := 1, algorithmId := BitVec.ofNat 8 alg, sideInfo := side, bitsPerPixel := BitVec.ofNat 8 bpp
    width := BitVec.ofNat 32 width, height := BitVec.ofNat 32 height, payloadLength := BitVec.ofNat 32 len }

theorem saveHeader_eq (s : State) :
    saveHeader s = savedFields s.cmpt.width s.cmpt.height s.cmpt.bpp s.cmpt.alg s.side s.outLen := rfl

theorem toNat_ofNat_of_lt {w n : Nat} (h : n < 2 ^ w) : (BitVec.ofNat w n).toNat = n := by
  rw [BitVec.toNat_ofNat, Nat.mod_eq_of_lt h]

/-- The 20 header bytes, written out (R272). -/
theorem encodeCmpt_savedFields {width height len : Nat} (bpp alg : Nat) (side : BitVec 8) (hw : width < 2 ^ 32)
    (hh : height < 2 ^ 32) (hl : len < 2 ^ 32) :
    encodeCmpt (savedFields width height bpp alg side len) =
      Config.cmptMagic ++ [BitVec.ofNat 8 Config.cmptVersion, BitVec.ofNat 8 alg, side, BitVec.ofNat 8 bpp]
        ++ toLe 4 width ++ toLe 4 height ++ toLe 4 len := by
  simp only [encodeCmpt, savedFields, toNat_ofNat_of_lt hw, toNat_ofNat_of_lt hh, toNat_ofNat_of_lt hl]
  rfl

theorem encodeCmpt_length (f : CmptFields) : (encodeCmpt f).length = Config.cmptHdrLen :=
  (Laws.EncodedLength.cmptHdr f).1

theorem file_length (f : CmptFields) (payload : Bytes) :
    (encodeCmpt f ++ payload).length = 20 + payload.length := by
  rw [List.length_append, encodeCmpt_length]
  rfl

section
variable {s : State} {payload : Bytes}

theorem writeFile_done (h : CmptFields) (hd : s.status = .done) (ho : s.outputBytes = some payload) :
    writeFile h s = .next { s with
      draws := s.draws + 1
      cmpt := { s.cmpt with
        phase := .idle, file := encodeCmpt h ++ payload
        result := .saved s.cmpt.pixels.length payload.length (Config.elapsed s.draws) } } := by
  simp only [writeFile, if_pos hd, ho]

theorem exec_cmptHdr_save (h : CmptFields) (hd : s.status = .done) (hs : s.start = false)
    (hp : s.cmpt.phase = .saveCodec) : exec (.cmptHdr h) s = writeFile h s :=
  (execCmptHdr_host (by simp [hd]) hs).2 hp

theorem step_writeFile (hd : s.status = .done) (hs : s.start = false) (hp : s.cmpt.phase = .saveCodec)
    (hl : s.outLen < 2 ^ 32) :
    step s = writeFile (savedFields s.cmpt.width s.cmpt.height s.cmpt.bpp s.cmpt.alg s.side s.outLen) s := by
  rw [step_saveCodec (by simp [hd]) hs hp hl, exec_cmptHdr_save _ hd hs hp, saveHeader_eq]

/-- A payload of 2^32 bytes or more has no length field (R274). -/
theorem step_payloadTooLong (hb : s.status ≠ .busy) (hs : s.start = false) (hp : s.cmpt.phase = .saveCodec)
    (hl : 2 ^ 32 ≤ s.outLen) : step s = .refused .payloadTooLong := by
  rw [step_host hb hs, fetchHostLayer, hp]
  simp only [if_neg (Nat.not_lt.mpr hl), runFetched_act]

end

/-- Settles O46: the write of any header, and the step that writes the header of the call. -/
theorem cmptHdrSaves : Obligations.CmptHdrSaves := by
  refine ⟨fun h payload s hd hs hp ho => ?_, fun payload s hd hs hp ho _ _ hw hh => ⟨fun hl => ?_, fun hl => ?_⟩⟩
  · exact ⟨_, (exec_cmptHdr_save h hd hs hp).trans (writeFile_done h hd ho)⟩
  · have hlen : s.outLen = payload.length := (Memory.readBytes_length ho).symm
    refine ⟨Config.elapsed s.draws, ?_⟩
    rw [step_writeFile hd hs hp hl, writeFile_done _ hd ho, hlen,
      encodeCmpt_savedFields _ _ _ hw hh (hlen ▸ hl)]
    rfl
  · exact step_payloadTooLong (by simp [hd]) hs hp hl

end Sys2Proof.Machine
end

section
/-! SUPPORT. `CMPT_SAVE` from its call to its return (R279): the arguments, the codec's run, and the file. -/

namespace Sys2Proof.Machine

/-! ### The function of R279 after its checks -/

/-- The payload and the side info that the codec of `CMPT_SAVE` makes of the pixels (R273). -/
def encodePayload (p : Config.Params) (alg : Nat) (pixels : Bytes) : OpResult (Bytes × Nat) :=
  if alg = Config.algDict then lzwEncodeBytes pixels else .ok (lz77EncodeBytes p.tieBreak pixels, 0)

/-- What `CMPT_SAVE` answers on the result of its codec (R272, R274, R276). -/
def saveResult (width height bpp alg : Nat) : OpResult (Bytes × Nat) → OpResult Bytes
  | .ok (payload, side) =>
    if payload.length < 2 ^ 32 then
      .ok (encodeCmpt (savedFields width height bpp alg (BitVec.ofNat 8 side) payload.length) ++ payload)
    else .refused .payloadTooLong
  | .error c => .error c
  | .refused r => .refused r

section
variable {p : Config.Params} {width height bpp alg : Nat} {pixels : Bytes}

theorem cmptSaveBytes_refused (h : ¬ SaveFits width height bpp alg) :
    cmptSaveBytes p width height bpp pixels alg = .refused .saveArgument :=
  if_neg h

theorem cmptSaveBytes_fits (h : SaveFits width height bpp alg) :
    cmptSaveBytes p width height bpp pixels alg =
      if p.maxInputLen < pixels.length then .refused .inputTooLong
      else saveResult width height bpp alg (encodePayload p alg pixels) := by
  obtain ⟨-, hw, hh, -⟩ := id h
  refine (if_pos h).trans (ite_congr rfl (fun _ => rfl) fun _ => ?_)
  unfold encodePayload
  generalize (if alg = Config.algDict then _ else _ : OpResult (Bytes × Nat)) = coded
  cases coded with
  | ok coded =>
    obtain ⟨payload, side⟩ := coded
    refine ite_congr rfl (fun hl => ?_) fun _ => rfl
    rw [encodeCmpt_savedFields bpp alg _ hw hh hl]
  | error c => rfl
  | refused r => rfl

end

/-! ### The codec's run -/

/-- The outcome `o` of an encoder started at `s` is the result `r`. -/
def EncoderEnds (s : State) (o : Outcome) : OpResult (Bytes × Nat) → Prop
  | .ok (out, side) => ∃ t, o = .next t ∧ EndsOk s t out ∧ t.side = BitVec.ofNat 8 side ∧ recordsSame s t
  | .error _ => False
  | .refused r => o = .refused r

section
variable {s : State}

theorem saveStarted_inputTooLong (hmax : s.params.maxInputLen < s.cmpt.pixels.length) :
    step s.saveStarted = .refused .inputTooLong := by
  refine step_inputTooLong nofun rfl (.inl ?_) hmax
  by_cases halg : s.cmpt.alg = Config.algDict
  · exact .inr (.inl (if_pos halg))
  · exact .inr (.inr (.inl (if_neg halg)))

/-- The codec that `CMPT_SAVE` has started runs as its function, for both algorithms. -/
theorem saveStarted_runs (hov : s.overlap = false) (hu : unbounded s)
    (hmax : s.cmpt.pixels.length ≤ s.params.maxInputLen) :
    ∃ k, k ≤ s.cmpt.pixels.length + 2 ∧ EncoderEnds s.saveStarted (runSteps k s.saveStarted)
      (encodePayload s.params s.cmpt.alg s.cmpt.pixels) := by
  have hready (c : BitVec 3) (hc : c ≠ cmdLzwDec) :=
    ready_codecStarted (c := c) (side := s.side) (written := s.sideWritten)
      (cmpt := { s.cmpt with phase := .saveCodec }) hmax hov (absurd · hc)
  by_cases halg : s.cmpt.alg = Config.algDict
  · simp only [State.saveStarted, encodePayload, if_pos halg]
    obtain ⟨k, hk, hrun⟩ := lzwEncRunsAsTransaction _ _ (hready cmdLzwEnc (by decide)) hu
    refine ⟨k, hk, ?_⟩
    cases hres : lzwEncodeBytes s.cmpt.pixels with
    | ok coded =>
      rw [hres] at hrun
      obtain ⟨t, hrun, hends, hside, -, hrecords⟩ := hrun
      exact ⟨t, hrun, hends, hside, hrecords⟩
    | error c => rw [hres] at hrun; exact hrun
    | refused r => rw [hres] at hrun; exact hrun
  · simp only [State.saveStarted, encodePayload, if_neg halg]
    obtain ⟨k, t, hk, hrun, hends, hside, -, hrecords⟩ :=
      lz77EncRunsAsTransaction _ _ (hready cmdLz77Enc (by decide)) hu
    exact ⟨k, hk, t, hrun, hends, hside, hrecords⟩

end

/-! ### The return -/

/-- The outcome `o` of `CMPT_SAVE`, called at `s`, is the result `r` (R271, R277); there is no error (R317). -/
def SaveReturns (s : State) (o : Outcome) : OpResult Bytes → Prop
  | .ok file => ∃ t e, o = .next t ∧ t.cmpt.phase = .idle ∧ t.cmpt.file = file ∧
      t.cmpt.result = .saved s.cmpt.pixels.length (file.length - 20) e ∧ t.params = s.params ∧ recordsSame s t ∧
      t.draws = s.draws + 1
  | .error _ => False
  | .refused r => o = .refused r

section
variable {s : State}

/-- The end of the call after the codec's run (R276, R277). -/
theorem SaveReturns.of_encoderEnds {k : Nat} {r : OpResult (Bytes × Nat)}
    (hends : EncoderEnds s.saveStarted (runSteps k s.saveStarted) r) :
    SaveReturns s (runSteps (k + 1) s.saveStarted)
      (saveResult s.cmpt.width s.cmpt.height s.cmpt.bpp s.cmpt.alg r) := by
  have hstarts : startSound s.saveStarted := ⟨fun _ => rfl, fun _ => rfl⟩
  rw [runSteps_add]
  cases r with
  | ok coded =>
    obtain ⟨payload, side⟩ := coded
    obtain ⟨t, hrun, ⟨hdone, -, -, houtLen, hout, hparams, -, -, -, hcmpt, hdraws⟩, hside, hrecords⟩ := hends
    have hargs : t.cmpt = { s.cmpt with phase := .saveCodec } := hcmpt
    have hphase : t.cmpt.phase = .saveCodec := by rw [hargs]
    have hstart : t.start = false := start_of_run hstarts hrun (by simp [hdone])
    rw [hrun, andThen_next, runSteps_one, saveResult]
    by_cases hl : payload.length < 2 ^ 32
    · rw [if_pos hl, step_writeFile hdone hstart hphase (houtLen ▸ hl), writeFile_done _ hdone hout, hargs, hside,
        houtLen]
      refine ⟨_, Config.elapsed t.draws, rfl, rfl, rfl, ?_, hparams, hrecords, congrArg (· + 1) hdraws⟩
      rw [file_length, Nat.add_sub_cancel_left]
    · rw [if_neg hl, step_payloadTooLong (by simp [hdone]) hstart hphase (houtLen ▸ Nat.not_lt.mp hl)]
      exact rfl
  | error c => exact hends.elim
  | refused r =>
    rw [hends]
    exact rfl

/-- A call of `CMPT_SAVE` in its order: the arguments, the launch, the codec, the file. -/
theorem cmptSave_runs (hb : s.status ≠ .busy) (hs : s.start = false) (hp : s.cmpt.phase = .saveStart)
    (hov : s.overlap = false) (hu : unbounded s) :
    ∃ k, k ≤ s.cmpt.pixels.length + 4 ∧ SaveReturns s (runSteps k s)
      (cmptSaveBytes s.params s.cmpt.width s.cmpt.height s.cmpt.bpp s.cmpt.pixels s.cmpt.alg) := by
  have hstart := step_saveStart hb hs hp
  by_cases hfits : SaveFits s.cmpt.width s.cmpt.height s.cmpt.bpp s.cmpt.alg
  · have hstep := hstart.trans (saveStart_fits hfits)
    rw [cmptSaveBytes_fits hfits]
    split_ifs with hmax
    · refine ⟨2, by omega, ?_⟩
      rw [runSteps_succ hstep, runSteps_one, saveStarted_inputTooLong hmax]
      exact rfl
    · obtain ⟨k, hk, hends⟩ := saveStarted_runs hov hu (Nat.not_lt.mp hmax)
      exact ⟨k + 2, by omega, by rw [runSteps_succ hstep]; exact SaveReturns.of_encoderEnds hends⟩
  · refine ⟨1, by omega, ?_⟩
    rw [cmptSaveBytes_refused hfits, runSteps_one, hstart, saveStart_refused hfits]
    exact rfl

end

/-- Settles O50: the call's own steps (`cmptSave_runs`) around the run of the codec it starts. -/
theorem cmptSaveRunsAsTransaction : Obligations.CmptSaveRunsAsTransaction :=
  fun _ hb hs hp hov hu => cmptSave_runs hb hs hp hov hu

end Sys2Proof.Machine
end

section
/-! SUPPORT. The round trip of the container (R287): the saved header is the loaded one, and each codec undoes itself. -/

namespace Sys2Proof.Machine

section
variable {p : Config.Params} {width height bpp alg side : Nat} {pixels payload file : Bytes}

/-- A file that `CMPT_SAVE` answers is the header and the payload of its codec (R272, R276). -/
theorem cmptSaveBytes_eq_ok (h : cmptSaveBytes p width height bpp pixels alg = .ok file) :
    SaveFits width height bpp alg ∧ ∃ payload side, encodePayload p alg pixels = .ok (payload, side) ∧
      payload.length < 2 ^ 32 ∧
      file = encodeCmpt (savedFields width height bpp alg (BitVec.ofNat 8 side) payload.length) ++ payload := by
  by_cases hfits : SaveFits width height bpp alg
  · refine ⟨hfits, ?_⟩
    rw [cmptSaveBytes_fits hfits] at h
    split_ifs at h
    cases hcoded : encodePayload p alg pixels with
    | ok coded =>
      obtain ⟨payload, side⟩ := coded
      rw [hcoded, saveResult] at h
      split_ifs at h with hl
      exact ⟨payload, side, rfl, hl, (OpResult.ok.inj h).symm⟩
    | error c => rw [hcoded] at h; cases h
    | refused r => rw [hcoded] at h; cases h
  · rw [cmptSaveBytes_refused hfits] at h
    cases h

/-- `CMPT_LOAD` on a header of its own kind and exactly the announced payload (R285). -/
theorem cmptLoadBytes_encode {f : CmptFields} (hv : f.version = 1) (ha : f.algorithmId = 1 ∨ f.algorithmId = 2)
    (hlen : f.payloadLength.toNat = payload.length) (hmax : payload.length ≤ p.maxInputLen) :
    cmptLoadBytes p (encodeCmpt f ++ payload) = loadResult f (decodePayload p f payload) := by
  have htotal := file_length f payload
  have hpayload : slice (encodeCmpt f ++ payload) Config.cmptHdrLen payload.length = payload := by
    rw [slice, List.drop_left' (encodeCmpt_length f), List.take_length]
  have hpasses := cmptLoadBytes_passes (p := p) (file := encodeCmpt f ++ payload) rfl (by omega)
    (by rw [cmptFields_encode]; exact headerCause_eq_none.mpr ⟨hv, ha, by omega⟩)
  rw [hpasses, cmptFields_encode, hlen, if_neg (Nat.not_lt.mpr hmax), hpayload]

theorem lzwEncodeBytes_side_le (h : lzwEncodeBytes pixels = .ok (payload, side)) : side ≤ 4 := by
  simp only [lzwEncodeBytes] at h
  split_ifs at h
  obtain ⟨-, rfl⟩ := Prod.mk.inj (OpResult.ok.inj h)
  exact codeWidth_le _

/-- Each codec undoes itself (R197, R253), the dictionary codec with the side info from the header. -/
theorem decodePayload_encodePayload (ha : alg = 1 ∨ alg = 2) (h : encodePayload p alg pixels = .ok (payload, side)) :
    decodePayload p (savedFields width height bpp alg (BitVec.ofNat 8 side) payload.length) payload = .ok pixels := by
  rcases ha with rfl | rfl
  · have hside := lzwEncodeBytes_side_le h
    have hbyte : (BitVec.ofNat 8 side).toNat = side := toNat_ofNat_of_lt (by omega)
    have hround := lzwRoundTrip p.widthPolicy pixels payload side h
    rw [← hbyte] at hround
    exact hround
  · obtain ⟨rfl, -⟩ := Prod.mk.inj (OpResult.ok.inj h)
    exact lz77RoundTrip p.tieBreak pixels

end

/-- Settles O51: the file is the header and the payload; the header is read back and the payload decoded. -/
theorem cmptRoundTrip : Obligations.CmptRoundTrip := by
  intro p width height bpp alg pixels file hmax hw hh hb hpixels ha hsave
  obtain ⟨-, payload, side, hcoded, hl, rfl⟩ := cmptSaveBytes_eq_ok hsave
  have hwidth : (BitVec.ofNat 32 width).toNat = width := toNat_ofNat_of_lt hw
  have hheight : (BitVec.ofNat 32 height).toNat = height := toNat_ofNat_of_lt hh
  have hbits : (BitVec.ofNat 8 bpp).toNat = bpp := toNat_ofNat_of_lt (by omega)
  have halg : BitVec.ofNat 8 alg = 1 ∨ BitVec.ofNat 8 alg = 2 := ha.imp (congrArg _) (congrArg _)
  rw [cmptLoadBytes_encode rfl halg (toNat_ofNat_of_lt hl) (by omega), decodePayload_encodePayload ha hcoded]
  simp only [loadResult, savedFields, hwidth, hheight, hbits]
  exact if_pos hpixels

end Sys2Proof.Machine
end

section
/-! SUPPORT. The entry into an error (R314): the state in which an error is raised, and what the entry leaves. -/

namespace Sys2Proof.Machine

section
variable {s t : State}

/-- The block raises an error in the state it stands in, or, at a start, in the started state of the operation in
`CMD` (R186, R187). -/
theorem Transition.raised_of_error (h : Transition s t) (hact : s.status = .busy ∨ s.start = true)
    (he : t.status = .error) :
    ∃ u c, (u = s ∨ u = s.started s.cmd) ∧ c ≠ ErrCause.none ∧ t = u.raiseError c := by
  have hidle : s.status ≠ .busy → s.start = false → False := fun hb hs => hact.elim hb (by simp [hs])
  cases h with
  | works hb hw => cases (hw.status_eq.trans hb).symm.trans he
  | ends _ hend => cases hend.status_eq.symm.trans he
  | raises c _ _ hne => exact ⟨s, c, .inl rfl, hne, rfl⟩
  | starts => cases he
  | startFails c _ _ hc hne => exact ⟨_, c, .inr (by rw [hc]), hne, rfl⟩
  | callOver _ _ hb hs | saveStarts _ _ _ hb hs | loadStarts _ _ _ _ _ hb hs => exact (hidle hb hs).elim

/-- What the host reads at `STATUS = ERROR` (R70). -/
theorem hostReads_raiseError (s : State) (c : ErrCause) :
    hostReadOut (s.raiseError c) = .error .readNotPermitted ∧
      hostReadError (s.raiseError c) = .ok (c.kind.bits, c.bits) := by
  have hdone : (s.raiseError c).status ≠ .done := nofun
  obtain ⟨hout, -⟩ := hostReads_not_done hdone
  exact ⟨hout, hostReadError_error rfl⟩

end

/-- Settles O15: neither a start nor `State.raiseError` touches `IN`, `OUT`, `SIDE`, the records or the host layer. -/
theorem errorEntry : Obligations.ErrorEntry := by
  intro s t hact h he
  obtain ⟨u, c, hu, hne, rfl⟩ := (transition_of_step h).raised_of_error hact he
  have hreads := hostReads_raiseError u c
  rcases hu with rfl | rfl <;>
    exact ⟨hne, rfl, rfl, rfl, rfl, rfl, rfl, rfl, rfl, rfl, rfl, rfl, rfl, rfl, rfl, rfl, hreads⟩

end Sys2Proof.Machine
end

section
/-! SUPPORT. The start of an operation in both directions (R341, R342): which launches are refused, why a well-formed one
can end at once, and that an operation which runs stands in its started state. -/

namespace Sys2Proof.Machine

section
variable {s t : State} {c : BitVec 3}

/-! ### The refused launches (R342) -/

theorem toNat_of_not_reserved (h : ¬ reservedCommand c) : 1 ≤ c.toNat ∧ c.toNat ≤ 5 := by
  unfold reservedCommand at h
  revert c
  decide

/-- An operation whose launch is not refused was started from a well-formed launch; with
`LaunchPremises.launchRefusal_eq_none` this is R342 in both directions. -/
theorem LaunchPremises.of_launchRefusal (hc : ¬ reservedCommand c) (h : launchRefusal c s = none) :
    LaunchPremises c s := by
  obtain ⟨hlen, hdisjoint, -, hwidth, -⟩ := Machine.launchRefusal_eq_none.mp h
  refine ⟨toNat_of_not_reserved hc, hlen, fun a ha => ?_, hdisjoint, hwidth⟩
  simpa using Memory.readBytes_isSome.mp (inputBytes_isSome_of_launch h) a ha

/-- The checks that `LZW_DEC` makes after its launch are never reached by a refused one. -/
theorem exec_of_launchRefusal {r : Refusal} (hc : ¬ reservedCommand c) (hb : s.status ≠ .busy)
    (h : launchRefusal c s = some r) : exec (decodeCommand c) s = .refused r := by
  have hlaunch : launch c s = .refused r := by simp [launch, h]
  rcases command_cases c with hplain | rfl | hres
  · rw [exec_plain_not_busy hplain hb, hlaunch]
  · show exec .lzwDec s = _
    rw [exec_lzwDec_not_busy hb, hlaunch, andThen_refused]
  · exact absurd hres hc

theorem exec_refused_of_not_premises (hb : s.status ≠ .busy) (h : ¬ LaunchPremises c s) :
    ∃ r, exec (decodeCommand c) s = .refused r := by
  by_cases hc : reservedCommand c
  · exact ⟨_, exec_reserved hc s⟩
  · obtain ⟨r, hr⟩ := Option.ne_none_iff_exists'.mp fun e => h (.of_launchRefusal hc e)
    exact ⟨r, exec_of_launchRefusal hc hb hr⟩

/-- An error at the start of `LZW_DEC` comes from its width or its length (R186, R187). -/
theorem lzwDec_start_error (hb : s.status ≠ .busy) (h : exec .lzwDec s = .next t) (he : t.status = .error) :
    s.side.toNat ∉ Config.lzwWidths ∨ s.inLen % s.side.toNat ≠ 0 := by
  rw [exec_lzwDec_not_busy hb] at h
  obtain ⟨u, hu, h⟩ := andThen_eq_next.mp h
  obtain ⟨-, rfl⟩ := launch_eq_next.mp hu
  rcases lzwDecChecks_eq_next h with ⟨-, -, rfl⟩ | ⟨-, hlen, -⟩ | ⟨hwidth, -, -⟩
  · cases he
  · exact .inr hlen
  · exact .inl hwidth

/-! ### The started state (R341) -/

/-- A start after which the operation runs has left `State.started`, whichever operation it is. -/
theorem eq_started_of_exec (hb : s.status ≠ .busy) (h : exec (decodeCommand c) s = .next t) (hrun : t.status = .busy) :
    t = s.started c := by
  rcases command_cases c with hc | rfl | hc
  · rw [exec_plain_not_busy hc hb] at h
    exact (launch_eq_next.mp h).2
  · obtain ⟨-, ⟨-, -, rfl⟩ | ⟨cause, -, rfl⟩⟩ := exec_lzwDec_start hb h
    · rfl
    · cases hrun
  · rw [exec_reserved hc] at h
    cases h

end

/-- Settles O12: without a `DICT_CAP` the launch tests exactly the premises of R342, and under the default policy the
checks of `LZW_DEC` answer with an error. -/
theorem refusedExactlyWhenNotWellFormed : Obligations.RefusedExactlyWhenNotWellFormed := by
  intro c s hcap hpolicy
  refine ⟨fun hb => ?busy, fun hb h => ?wellFormed, exec_refused_of_not_premises⟩
  case busy => rw [hostStart, hostMayMove_eq_false (.inl hb), if_neg nofun]
  case wellFormed =>
    have hfits : dictFits s.params 255 = true := by simp [dictFits, hcap]
    obtain ⟨t, ht, hend⟩ := h.exec_answers hb (fun _ => hfits) fun _ => .inr hpolicy
    refine ⟨t, ht, hend.imp_right fun ⟨hc, he⟩ => ⟨hc, he, ?_⟩⟩
    subst hc
    exact lzwDec_start_error hb ht he

/-- Settles O13: an operation that runs stands in `State.started`, whose working state is made of constants. -/
theorem operationStartState : Obligations.OperationStartState := by
  intro c s t hb h hrun
  obtain rfl := eq_started_of_exec hb h hrun
  refine ⟨rfl, rfl, fun hc => ?lzwEnc, fun hc => ?lzwDec⟩
  case lzwEnc =>
    subst hc
    exact ⟨seededDict_seedDict, rfl, rfl, rfl⟩
  case lzwDec =>
    subst hc
    exact ⟨tableLookup_seed, rfl, rfl⟩

end Sys2Proof.Machine
end
